-- ==== Sys2Proof/Word.lean ====
section
/-!
DEFINITION. The word and byte types of the TinyHash32 core (00_scope.md rules R6, R9, R10).

Arithmetic on words is BitVec's own: `+` and `*` wrap mod 2^32, `^^^`, `|||`, `&&&` are bitwise, `<<<` truncates
to 32 bits and `>>>` is unsigned, as rule R10 says. No value of the spec is signed (rule R9).
-/

namespace Sys2Proof

/-- A word: a 32-bit unsigned value (rule R9). -/
abbrev Word := BitVec 32

/-- A byte: one lane of a word (20_memory.md rule R34). -/
abbrev Byte := BitVec 8

end Sys2Proof
end

