-- ==== Sys2Proof/Syntax.lean ====
section
/-!
DEFINITION. The commands of the core: one constructor per row of spec/opcode_table.json (30_encoding.md rule R47).
-/

namespace Sys2Proof

/-- A command (10_state.md rule R24: the host's writes to `CMD` are the instructions). The fields are those of rule
R46: `K = ARG[2:0]` for TAIL and `AMT = ARG[5:0]` for ROTL. -/
inductive Instr where
  /-- `NOP` (45_control.md rule R85). -/
  | nop
  /-- `INIT` (41_absorb.md rule R59). -/
  | init
  /-- `ABSORB` (41_absorb.md rule R61). -/
  | absorb
  /-- `TAIL k` (41_absorb.md rule R62). -/
  | tail (k : BitVec 3)
  /-- `FROUND` (42_finalize.md rule R69). -/
  | fround
  /-- `FINAL` (42_finalize.md rule R70). -/
  | final
  /-- `ROTL a` (40_rotate.md rule R55). -/
  | rotl (a : BitVec 6)
  /-- `HAMHEX` (44_comparator.md rule R80). -/
  | hamhex
  /-- `HAMBIN` (44_comparator.md rule R81). -/
  | hambin
  /-- `CLRERR` (45_control.md rule R86). -/
  | clrerr
  deriving DecidableEq, Repr

end Sys2Proof
end

