-- ==== Sys2Proof/WellFormed.lean ====
section
/-!
DEFINITION. Which commands have a legal word (30_encoding.md rule R48). The field widths of `Instr` already keep
`ARG[7:3] = 0` for TAIL and `ARG[7:6] = 0` for ROTL; the one check left is `1 <= k` for TAIL.
-/

namespace Sys2Proof

/-- The command has an encoding: every field is in the range rule R48 gives it. -/
def Instr.wellFormed : Instr → Bool
  | .nop => true
  | .init => true
  | .absorb => true
  | .tail k => k != 0
  | .fround => true
  | .final => true
  | .rotl _ => true
  | .hamhex => true
  | .hambin => true
  | .clrerr => true

end Sys2Proof
end

