-- ==== Sys2Proof/Decode.lean ====
section
/-!
DEFINITION. Decoding and encoding of command words (30_encoding.md rules R45 to R51).

A command is one 32-bit word written to `CMD`; there are no bytes to order and no lengths to determine (rule R51).
-/

namespace Sys2Proof

/-- `OP = c[7:0]` (rule R46). -/
def opField (c : Word) : BitVec 8 := c.extractLsb' 0 8

/-- `ARG = c[15:8]` (rule R46). -/
def argField (c : Word) : BitVec 8 := c.extractLsb' 8 8

/-- `HI = c[31:16]` (rule R46). -/
def hiField (c : Word) : BitVec 16 := c.extractLsb' 16 16

/-- `K = ARG[2:0]`, the TAIL length (rule R46). -/
def kField (c : Word) : BitVec 3 := (argField c).extractLsb' 0 3

/-- `AMT = ARG[5:0]`, the ROTL amount field (rule R46). -/
def amtField (c : Word) : BitVec 6 := (argField c).extractLsb' 0 6

/-- Why a word is illegal: which of the three conditions of rule R48 fails first. The core reports all of them as
`ILLEGAL_COMMAND` with `ERRINFO = 0`. -/
inductive DecodeError where
  /-- `HI != 0`. -/
  | highHalfSet
  /-- `OP` is not listed in rule R47. -/
  | reservedOpcode
  /-- `ARG` breaks the constraint of its row. -/
  | argumentOutOfRange
  deriving DecidableEq, Repr

/-- The commands whose `ARG` must be 0 (rule R47). -/
def decodeNoArg (c : Word) (i : Instr) : Except DecodeError Instr :=
  if argField c = 0 then .ok i else .error .argumentOutOfRange

/-- The command of a word, or why it is illegal (rules R47, R48, R50). Total on every word. -/
def decode (c : Word) : Except DecodeError Instr :=
  if hiField c ≠ 0 then .error .highHalfSet
  else match (opField c).toNat with
    | 0x00 => decodeNoArg c .nop
    | 0x01 => decodeNoArg c .init
    | 0x02 => decodeNoArg c .absorb
    | 0x03 => if 1 ≤ (argField c).toNat ∧ (argField c).toNat ≤ 7 then .ok (.tail (kField c)) else .error .argumentOutOfRange
    | 0x04 => decodeNoArg c .fround
    | 0x05 => decodeNoArg c .final
    | 0x06 => if (argField c).toNat ≤ 0x3F then .ok (.rotl (amtField c)) else .error .argumentOutOfRange
    | 0x07 => decodeNoArg c .hamhex
    | 0x08 => decodeNoArg c .hambin
    | 0x0F => decodeNoArg c .clrerr
    | _ => .error .reservedOpcode

/-- The command of a table word: `nbits` bits of `w`, the bits above them 0 (the host's fixed name). A command is one
32-bit word, so there is one word to lay out. -/
def decodeTableWord (nbits w : Nat) : Option Instr :=
  (decode (BitVec.ofNat 32 (w % 2 ^ nbits))).toOption

/-- The word with the given `OP` and `ARG`, and `HI = 0` (rule R45). -/
def packWord (op arg : BitVec 8) : Word := op.setWidth 32 ||| (arg.setWidth 32 <<< 8)

/-- The `OP` of a command (rule R47). -/
def Instr.opcode : Instr → BitVec 8
  | .nop => 0x00#8
  | .init => 0x01#8
  | .absorb => 0x02#8
  | .tail _ => 0x03#8
  | .fround => 0x04#8
  | .final => 0x05#8
  | .rotl _ => 0x06#8
  | .hamhex => 0x07#8
  | .hambin => 0x08#8
  | .clrerr => 0x0F#8

/-- The `ARG` of a command (rules R47, R49). -/
def Instr.argument : Instr → BitVec 8
  | .nop => 0
  | .init => 0
  | .absorb => 0
  | .tail k => k.setWidth 8
  | .fround => 0
  | .final => 0
  | .rotl a => a.setWidth 8
  | .hamhex => 0
  | .hambin => 0
  | .clrerr => 0

/-- The word of a command (rule R47). -/
def encode (i : Instr) : Word := packWord i.opcode i.argument

/-- The mnemonic of a command, as spec/opcode_table.json spells it. -/
def Instr.mnemonic : Instr → String
  | .nop => "NOP"
  | .init => "INIT"
  | .absorb => "ABSORB"
  | .tail _ => "TAIL"
  | .fround => "FROUND"
  | .final => "FINAL"
  | .rotl _ => "ROTL"
  | .hamhex => "HAMHEX"
  | .hambin => "HAMBIN"
  | .clrerr => "CLRERR"

/-- One row of the opcode table: the fixed bits of a command's words (rule R47, spec/opcode_table.json). -/
structure OpcodeRow where
  mnemonic : String
  pattern : Word
  mask : Word
  deriving DecidableEq, Repr

/-- The opcode table: mnemonic, `match` and `mask` (rule R47). A word of TAIL also needs `c[10:8] != 0`. -/
def opcodeTable : List OpcodeRow := [
  { mnemonic := "NOP", pattern := 0x00000000, mask := 0xFFFFFFFF },
  { mnemonic := "INIT", pattern := 0x00000001, mask := 0xFFFFFFFF },
  { mnemonic := "ABSORB", pattern := 0x00000002, mask := 0xFFFFFFFF },
  { mnemonic := "TAIL", pattern := 0x00000003, mask := 0xFFFFF8FF },
  { mnemonic := "FROUND", pattern := 0x00000004, mask := 0xFFFFFFFF },
  { mnemonic := "FINAL", pattern := 0x00000005, mask := 0xFFFFFFFF },
  { mnemonic := "ROTL", pattern := 0x00000006, mask := 0xFFFFC0FF },
  { mnemonic := "HAMHEX", pattern := 0x00000007, mask := 0xFFFFFFFF },
  { mnemonic := "HAMBIN", pattern := 0x00000008, mask := 0xFFFFFFFF },
  { mnemonic := "CLRERR", pattern := 0x0000000F, mask := 0xFFFFFFFF }]

end Sys2Proof
end

