-- ==== Sys2Proof/Machine/Constants.lean ====
section
/-!
DEFINITION. The numeric literals of the algorithm, each defined once, by name (41_absorb.md rule R58).

UNVERIFIED: the literals are taken exactly as the spec writes them and were never audited against the original
repository (91_not_in_source.md N3, 92_eei_decisions.md D31; log entry 14; unsafe).
-/

namespace Sys2Proof.Machine

/-- `IV0` (rule R58). -/
def iv0 : Word := 0x243F6A88
/-- `IV1` (rule R58). -/
def iv1 : Word := 0x85A308D3
/-- `IV2` (rule R58). -/
def iv2 : Word := 0x13198A2E
/-- `IV3` (rule R58). -/
def iv3 : Word := 0x03707344

/-- `KA0` (rule R61). -/
def ka0 : Word := 0x9E3779B1
/-- `KA1` (rule R61). -/
def ka1 : Word := 0x85EBCA6B
/-- `KA2` (rule R61). -/
def ka2 : Word := 0xC2B2AE35
/-- `KA3` (rule R61). -/
def ka3 : Word := 0x27D4EB2F

/-- `KF0` (42_finalize.md rule R66). -/
def kf0 : Word := 0xDEADBEEF
/-- `KF1` (42_finalize.md rule R66). -/
def kf1 : Word := 0xBEEFDEAD

end Sys2Proof.Machine
end

