-- ==== Sys2Proof/Config.lean ====
section
/-!
DEFINITION. The parameters of an implementation: the sizes the spec decides (00_scope.md rule R7) and the two
parameters it leaves open (rule R8). The numeric literals of the algorithm stand in Machine/Constants.lean.
-/

namespace Sys2Proof.Config

/-- `WINDOW_BYTES`: the size of the register window (rule R7, D2). -/
def windowBytes : Nat := 512

/-- `HBUF_BYTES`: the capacity of one comparator operand buffer (rule R7, D18). -/
def hbufBytes : Nat := 64

/-- Where the platform puts one core and how long its commands take (rule R8, R44). Nothing in the step depends on
either value: the port carries window offsets, and `thLatency` is unobservable (70_reset_and_hazards.md rule R108). -/
structure Platform where
  /-- `TH_BASE`: the host physical address of offset 0x000 of the window. -/
  thBase : Nat
  /-- `TH_LATENCY`: the time each command takes; no rule depends on it. -/
  thLatency : Nat
  /-- `TH_BASE` must be a multiple of 512. -/
  aligned : thBase % 512 = 0
  deriving DecidableEq, Repr

end Sys2Proof.Config
end

