-- ==== Sys2Proof/Machine/State.lean ====
section
/-!
DEFINITION. The state of the core (10_state.md), its reset value (70_reset_and_hazards.md rule R101), and the named
reasons a step can stop.
-/

namespace Sys2Proof.Machine

/-- The digest state `S[0..3]`: "an ordered 4-tuple of 32-bit unsigned words" (10_state.md rule R13). -/
structure StateWords where
  w0 : Word
  w1 : Word
  w2 : Word
  w3 : Word
  deriving DecidableEq, Repr

/-- `PHASE`: the session phase (10_state.md rule R16). The values 5, 6 and 7 are never held, so they are not
representable (DEDUCED, log entry 10; safe). -/
inductive Phase where
  /-- 0: no session. -/
  | idle
  /-- 1: session open; blocks and the tail may be absorbed. -/
  | absorb
  /-- 2: the tail was absorbed; only finalization may follow. -/
  | tailed
  /-- 3: 1 to 5 finalization rounds done. -/
  | finalizing
  /-- 4: all 6 rounds done. -/
  | done
  deriving DecidableEq, Repr

/-- `ERRCODE`: the code of the first error (60_exceptions.md rule R89). The values 7 to 15 are never produced, so they
are not representable (DEDUCED, log entry 10; safe). -/
inductive ErrCode where
  /-- 0: no error since the last clear. -/
  | noError
  /-- 1: the word is not legal. -/
  | illegalCommand
  /-- 2: the command is out of the session order. -/
  | sequence
  /-- 3: `CNT != N` at the start of finalization. -/
  | countMismatch
  /-- 4: `HLENA > 64` or `HLENB > 64`. -/
  | operandRange
  /-- 5: a character with no `hexval`, or an odd length. -/
  | invalidEncoding
  /-- 6: the lengths differ. -/
  | lengthMismatch
  deriving DecidableEq, Repr

/-- What the platform delivers to the core next (20_memory.md rule R38, 70_reset_and_hazards.md rule R100). Offsets are
those of the register window: the platform has already taken `TH_BASE` off (log entry 4). -/
inductive PortEvent where
  /-- The host's `MemRead(TH_BASE + off, size)`, `size` in bytes. -/
  | read (off size : Nat)
  /-- The host's `MemWrite(TH_BASE + off, size, v)`, `size` in bytes. An access of another size than 4 is refused
  whatever it carries (log entry 6). -/
  | write (off size : Nat) (v : Word)
  /-- The platform drives the reset input: `true` asserts it, `false` releases it. -/
  | resetLine (asserted : Bool)
  deriving DecidableEq, Repr

/-- Byte-addressed storage: (address, byte) pairs in one canonical form, see `Memory.wf`. The core's only memory is
the two operand buffers (10_state.md rules R23, R30); their bytes are keyed by window offset, `A[j]` at `0x100 + j`
and `B[j]` at `0x140 + j` (log entry 9). -/
abbrev Memory := List Host.Cell

/-- What an unlisted byte reads as: the buffers' reset value 0 (10_state.md rule R23). -/
def Memory.unlisted : Byte := 0

/-- The canonical form: addresses strictly rise, no entry holds what an unlisted byte reads as, and every entry is a
byte of `HBUFA` or `HBUFB`. -/
abbrev Memory.wf (m : Memory) : Prop :=
  m.Pairwise (fun c d => c.1 < d.1) ∧ ∀ c ∈ m, c.2 ≠ Memory.unlisted ∧ 0x100 ≤ c.1 ∧ c.1 < 0x180

/-- The machine state: every register of 10_state.md, then the reset input and the two sides of the host port. -/
structure State where
  /-- `PHASE` (rule R16). -/
  phase : Phase
  /-- `ROUND` (rule R17). -/
  round : BitVec 3
  /-- `CNT`, the absorbed-byte count (rule R15). -/
  cnt : Word
  /-- `N`, the latched input length (rule R14). -/
  n : Word
  /-- `S[0..3]` (rule R13). -/
  S : StateWords
  /-- `LEN` (rule R18). -/
  len : Word
  /-- `DIN0` (rule R19). -/
  din0 : Word
  /-- `DIN1` (rule R19). -/
  din1 : Word
  /-- `OPX` (rule R20). -/
  opx : Word
  /-- `RESULT` (rule R21). -/
  result : Word
  /-- `HLENA` (rule R22). -/
  hlena : BitVec 7
  /-- `HLENB` (rule R22). -/
  hlenb : BitVec 7
  /-- `HBUFA` and `HBUFB` (rule R23). -/
  hbuf : Memory
  /-- `CMD`, the last word written (rule R25). -/
  cmd : Word
  /-- `ERR` (rule R26). -/
  err : Bool
  /-- `ERROVF` (rule R26). -/
  errovf : Bool
  /-- `ERRCODE` (rule R26). -/
  errcode : ErrCode
  /-- `ERRCMD` (rule R26). -/
  errcmd : Word
  /-- `ERRINFO` (rule R26). -/
  errinfo : Word
  /-- The reset input is asserted (70_reset_and_hazards.md rule R100). -/
  inReset : Bool
  /-- The model's own: what the platform has yet to deliver, oldest first (DESIGN CHOICE, log entry 1; safe). -/
  port : List PortEvent
  /-- The model's own: the values returned to the host's reads, newest first (DESIGN CHOICE, log entry 2; safe). -/
  readData : List Word
  deriving DecidableEq, Repr

/-- Why the machine is stuck. -/
inductive Fault where
  /-- An access was delivered while reset is asserted. Raised by the step alone. The core accepts no access then
  (70_reset_and_hazards.md rule R100; 93_implementation_defined.md U13, `stuck`). Safe: the model stops. -/
  | accessInReset
  deriving DecidableEq, Repr

/-- Why the model gives an access no meaning. -/
inductive Refusal where
  /-- A command without a meaning yet; raised by a dispatch arm alone. Safe: the model stops. No arm raises it. -/
  | notModelled (mnemonic : String)
  /-- An access that is not 4 bytes wide; raised by the port (20_memory.md rule R33, U3). Safe. -/
  | accessSize
  /-- An access at an offset that is not a multiple of 4; raised by the port (rule R33, U3). Safe. -/
  | misaligned
  /-- An access at offset 0x200 or above, which is "the platform's concern, not the core's"; raised by the port
  (rule R33, log entry 6). Safe. -/
  | outsideWindow
  deriving DecidableEq, Repr

/-- The core right after reset (70_reset_and_hazards.md rule R101): every register 0, `PHASE = IDLE`, no error. The
reset line is released, and the host has neither sent nor received anything (log entries 1, 2). -/
def State.reset : State where
  phase := .idle
  round := 0
  cnt := 0
  n := 0
  S := { w0 := 0, w1 := 0, w2 := 0, w3 := 0 }
  len := 0
  din0 := 0
  din1 := 0
  opx := 0
  result := 0
  hlena := 0
  hlenb := 0
  hbuf := []
  cmd := 0
  err := false
  errovf := false
  errcode := .noError
  errcmd := 0
  errinfo := 0
  inReset := false
  port := []
  readData := []

end Sys2Proof.Machine
end

