-- ==== Sys2Proof/Machine/Flags.lean ====
section
/-!
DEFINITION. The status fields: the codes of `PHASE` and `ERRCODE` and the value of `STATUS` (10_state.md rules R16,
R27; 60_exceptions.md rule R89).
-/

namespace Sys2Proof.Machine

/-- The 3-bit code of a session phase (10_state.md rule R16). -/
def Phase.code : Phase → BitVec 3
  | .idle => 0
  | .absorb => 1
  | .tailed => 2
  | .finalizing => 3
  | .done => 4

/-- The 4-bit code of an error (60_exceptions.md rule R89). -/
def ErrCode.code : ErrCode → BitVec 4
  | .noError => 0
  | .illegalCommand => 1
  | .sequence => 2
  | .countMismatch => 3
  | .operandRange => 4
  | .invalidEncoding => 5
  | .lengthMismatch => 6

/-- `{ROUND, 1'b0, PHASE}`, which is `STATUS[6:0]` (rules R27, R89). -/
def sessionBits (s : State) : BitVec 7 := (s.round ++ 0#1) ++ s.phase.code

/-- The value `STATUS` reads as: `zext_32({ERRCODE, 2'b00, ERROVF, ERR, 1'b0, ROUND, 1'b0, PHASE})` (rule R27). -/
def statusWord (s : State) : Word :=
  (s.errcode.code ++ 0#2 ++ BitVec.ofBool s.errovf ++ BitVec.ofBool s.err ++ 0#1 ++ sessionBits s : BitVec 16).setWidth 32

end Sys2Proof.Machine
end

