-- ==== Sys2Proof/Machine/Ops.lean ====
section
/-!
DEFINITION. The named operations: byte lanes, the storage of the operand buffers, the updates of registers, and
recording an error, which is what this core does instead of taking an exception (60_exceptions.md rules R87, R88, R94).
-/

namespace Sys2Proof.Machine

/-! ### Lanes -/

/-- Lane `i` of a word: bits `[8i+7 : 8i]` (20_memory.md rule R34). -/
def lane (w : Word) (i : Nat) : Byte := w.extractLsb' (8 * i) 8

/-- The word with the given lanes 0 to 3: `LE32` of 41_absorb.md rule R64. -/
def le32 (b0 b1 b2 b3 : Byte) : Word := b3 ++ b2 ++ b1 ++ b0

/-! ### Storage of the operand buffers -/

/-- The byte at window offset `a`; an unlisted byte reads as the reset value (10_state.md rule R23). -/
def memRead : Memory → Nat → Byte
  | [], _ => Memory.unlisted
  | (b, v) :: m, a => if a = b then v else memRead m a

/-- Put an entry in front, unless it holds what an unlisted byte reads as. -/
def memCons (a : Nat) (v : Byte) (m : Memory) : Memory :=
  if v = Memory.unlisted then m else (a, v) :: m

/-- Write one byte, keeping the canonical form `Memory.wf`. -/
def memWrite : Memory → Nat → Byte → Memory
  | [], a, v => memCons a v []
  | (b, w) :: m, a, v =>
    if a < b then memCons a v ((b, w) :: m)
    else if a = b then memCons a v m
    else (b, w) :: memWrite m a v

/-- The word whose lanes are the four bytes from window offset `off` on (20_memory.md rule R34). -/
def memReadWord (m : Memory) (off : Nat) : Word :=
  le32 (memRead m off) (memRead m (off + 1)) (memRead m (off + 2)) (memRead m (off + 3))

/-- Write a word's four lanes from window offset `off` on (20_memory.md rule R34). -/
def memWriteWord (m : Memory) (off : Nat) (v : Word) : Memory :=
  memWrite (memWrite (memWrite (memWrite m off (lane v 0)) (off + 1) (lane v 1)) (off + 2) (lane v 2)) (off + 3) (lane v 3)

/-! ### Register updates -/

/-- Write the session registers: `S`, `CNT`, `PHASE` and `ROUND` (10_state.md rules R13, R15, R16, R17). -/
def State.setSession (s : State) (S : StateWords) (cnt : Word) (phase : Phase) (round : BitVec 3) : State :=
  { s with S := S, cnt := cnt, phase := phase, round := round }

/-- Write `N` (10_state.md rule R14). -/
def State.setLength (s : State) (n : Word) : State := { s with n := n }

/-- Write `RESULT` (10_state.md rule R21). -/
def State.setResult (s : State) (v : Word) : State := { s with result := v }

/-- Store a word in `CMD`, without executing it (10_state.md rule R25). -/
def State.setCommand (s : State) (c : Word) : State := { s with cmd := c }

/-- Set what the platform has yet to deliver. -/
def State.setPort (s : State) (events : List PortEvent) : State := { s with port := events }

/-- Return a value to the host's read. -/
def State.pushRead (s : State) (v : Word) : State := { s with readData := v :: s.readData }

/-- Drive the reset input to a level (70_reset_and_hazards.md rule R100). -/
def State.setResetLine (s : State) (asserted : Bool) : State := { s with inReset := asserted }

/-- Every register at its reset value; the host port keeps what is on it, since it is outside the core
(70_reset_and_hazards.md rules R100, R101; log entry 7). -/
def State.toReset (s : State) : State := { State.reset with port := s.port, readData := s.readData }

/-! ### Errors -/

/-- `RecordError(E, c, info)`: the first error wins, a later one only sets `ERROVF` (60_exceptions.md rule R88). -/
def recordError (e : ErrCode) (c info : Word) (s : State) : State :=
  if s.err then { s with errovf := true }
  else { s with err := true, errcode := e, errcmd := c, errinfo := info }

/-- `raise E(info)`: `RecordError(E, CMD, info)`, and the command ends and writes nothing else (00_scope.md rule R11;
60_exceptions.md rules R87, R90). The core then accepts the next access, so this is a next state. -/
def raiseError (e : ErrCode) (info : Word) (s : State) : Host.Outcome State Fault Refusal :=
  .next (recordError e s.cmd info s)

/-- Clear the error record: the counterpart of `recordError` (45_control.md rule R86). -/
def clearErrors (s : State) : State :=
  { s with err := false, errovf := false, errcode := .noError, errcmd := 0, errinfo := 0 }

/-- The outcome of a command whose checks gave `check`: the first failing check's error and detail is raised on `s`
(60_exceptions.md rule R91), or the command has its effect `t`. -/
def afterChecks (check : Option (ErrCode × Word)) (s t : State) : Host.Outcome State Fault Refusal :=
  match check with
  | some (e, info) => raiseError e info s
  | none => .next t

end Sys2Proof.Machine
end

