-- ==== Sys2Proof/Machine/Operands.lean ====
section
/-!
DEFINITION. Operand assembly: the block words of TAIL (41_absorb.md rule R62) and the operands of the comparator
(44_comparator.md rules R78, R79).
-/

namespace Sys2Proof.Machine

/-- `{DIN1, DIN0} & (2^(8k) - 1)`: the zero-padded tail block (41_absorb.md rule R62). -/
def tailBlock (k : Nat) (din0 din1 : Word) : BitVec 64 := (din1 ++ din0) &&& BitVec.ofNat 64 (2 ^ (8 * k) - 1)

/-- `w1 <- blk[31:0]` (rules R60, R62). -/
def blockLow (blk : BitVec 64) : Word := blk.extractLsb' 0 32

/-- `w2 <- blk[63:32]` (rules R60, R62). -/
def blockHigh (blk : BitVec 64) : Word := blk.extractLsb' 32 32

/-- The first `len` bytes of the buffer at window offset `base` (44_comparator.md rule R78): byte `j` is lane `j mod 4`
of word `j div 4`, which is the byte at `base + j`. -/
def bufferBytes (m : Memory) (base len : Nat) : List Byte := (List.range len).map fun j => memRead m (base + j)

/-- Operand A: `A[0 .. HLENA-1]` (rule R78). -/
def operandA (s : State) : List Byte := bufferBytes s.hbuf 0x100 s.hlena.toNat

/-- Operand B: `B[0 .. HLENB-1]` (rule R78). -/
def operandB (s : State) : List Byte := bufferBytes s.hbuf 0x140 s.hlenb.toNat

/-- `hexval(c)`: the value of a hexadecimal character, or none where it is invalid (44_comparator.md rule R79; uppercase is
accepted, D15). -/
def hexval (c : Byte) : Option Byte :=
  if 0x30 ≤ c.toNat ∧ c.toNat ≤ 0x39 then some (c - 0x30)
  else if 0x61 ≤ c.toNat ∧ c.toNat ≤ 0x66 then some (c - 0x61 + 10)
  else if 0x41 ≤ c.toNat ∧ c.toNat ≤ 0x46 then some (c - 0x41 + 10)
  else none

/-- `hexval(hi) * 16 + hexval(lo)`, for two valid characters (rule R79). -/
def hexPair (hi lo : Byte) : Byte := (hexval hi).getD 0 * 16 + (hexval lo).getD 0

/-- `Decode(X, L)`: the bytes of a valid hexadecimal string (rule R79). -/
def decodeHex : List Byte → List Byte
  | hi :: lo :: rest => hexPair hi lo :: decodeHex rest
  | _ => []

/-- The position of the first character without a `hexval`; else the length if it is odd; else none (44_comparator.md
rule R80). -/
def badHexPosition (xs : List Byte) : Option Nat :=
  match xs.findIdx? (fun c => (hexval c).isNone) with
  | some p => some p
  | none => if xs.length % 2 = 1 then some xs.length else none

/-- `popcount(v)`: the number of bits of a byte equal to 1 (00_scope.md rule R12). -/
def popcount (v : Byte) : Nat := (List.range 8).countP (fun i => v.getLsbD i)

/-- The sum, over paired bytes at the same offset, of the number of set bits in their XOR (44_comparator.md rules R80,
R81). -/
def hammingDistance (xs ys : List Byte) : Nat := (List.zipWith (fun x y => popcount (x ^^^ y)) xs ys).sum

end Sys2Proof.Machine
end

