-- ==== Sys2Proof/Machine/Rotate.lean ====
section
/-!
DEFINITION. rotate_left_32: the primitive and the command `ROTL` (40_rotate.md).
-/

namespace Sys2Proof.Machine

/-- The primitive `rotl32(x, r)`; the amount is reduced mod 32 (rule R54). -/
def rotl32 (x : Word) (r : Nat) : Word :=
  if r % 32 = 0 then x else (x <<< (r % 32)) ||| (x >>> (32 - r % 32))

/-- `ROTL a`: `RESULT <- rotl32(OPX, ARG[4:0])` (rule R55; `ARG[5]` is accepted and ignored, 30_encoding.md rule R49). -/
def execRotl (a : BitVec 6) (s : State) : Host.Outcome State Fault Refusal :=
  .next (s.setResult (rotl32 s.opx (a.extractLsb' 0 5).toNat))

end Sys2Proof.Machine
end

