-- ==== Sys2Proof/Machine/Absorb.lean ====
section
/-!
DEFINITION. tinyhash32_absorb_engine: `INIT`, `ABSORB` and `TAIL` (41_absorb.md). Each command's effect on `S` is a
pure function, as 43_serializer.md rule R77 names them; the command adds the session's bookkeeping.
-/

namespace Sys2Proof.Machine

/-- The state words `INIT` leaves for the length `n` (rule R59). -/
def initWords (n : Word) : StateWords where
  w0 := iv0 ^^^ n
  w1 := iv1
  w2 := iv2
  w3 := iv3 ^^^ (n <<< 3)

/-- `INIT`: open a session for an input of `LEN` bytes (rule R59). Legal in every phase. -/
def execInit (s : State) : Host.Outcome State Fault Refusal :=
  .next ((s.setLength s.len).setSession (initWords s.len) 0 .absorb 0)

/-- The update of `ABSORB` on the block words `w1`, `w2`: eight statements in strict order, each reading the values
the earlier ones left (rule R61). The primed names are the second values of a word. `*` commutes, so the
constant is written first: the kernel then never unfolds a product along a large literal. -/
def absorbWords (S : StateWords) (w1 w2 : Word) : StateWords :=
  let s0 := S.w0 + w1
  let s1 := S.w1 ^^^ w2
  let s2 := S.w2 + rotl32 (w1 ^^^ s1) 5
  let s3 := S.w3 ^^^ rotl32 (w2 + s0) 11
  let s0' := ka0 * rotl32 (s0 ^^^ s3) 7
  let s1' := ka1 * rotl32 (s1 + s0') 13
  let s2' := ka2 * rotl32 (s2 ^^^ s1') 17
  let s3' := ka3 * rotl32 (s3 + s2') 19
  { w0 := s0', w1 := s1', w2 := s2', w3 := s3' }

/-- The session-order check of `ABSORB` and `TAIL`: `SEQUENCE` unless `PHASE = ABSORB` (rules R61, R62). -/
def absorbCheck (s : State) : Option (ErrCode × Word) :=
  if s.phase = .absorb then none else some (.sequence, (sessionBits s).setWidth 32)

/-- `ABSORB`: fold one full 8-byte block into the state (rule R61). -/
def execAbsorb (s : State) : Host.Outcome State Fault Refusal :=
  afterChecks (absorbCheck s) s (s.setSession (absorbWords s.S s.din0 s.din1) (s.cnt + 8) s.phase s.round)

/-- The update of `TAIL` on the zero-padded block words `w1`, `w2` for the length `n` (rule R62). -/
def tailWords (S : StateWords) (w1 w2 n : Word) : StateWords where
  w0 := S.w0 + (w1 ^^^ (n <<< 3))
  w1 := S.w1 ^^^ (w2 + n)
  w2 := S.w2 + rotl32 w1 3
  w3 := S.w3 ^^^ rotl32 w2 7

/-- The checks of `TAIL k`: `k = 0` is the illegal word 0x00000003 (rule R62; the decoder never gives it, log entry 11);
then the session order. -/
def tailCheck (k : BitVec 3) (s : State) : Option (ErrCode × Word) :=
  if k = 0 then some (.illegalCommand, 0) else absorbCheck s

/-- `TAIL k`: fold the final `k` residual bytes, zero-padded, into the state (rule R62). -/
def execTail (k : BitVec 3) (s : State) : Host.Outcome State Fault Refusal :=
  let blk := tailBlock k.toNat s.din0 s.din1
  afterChecks (tailCheck k s) s
    (s.setSession (tailWords s.S (blockLow blk) (blockHigh blk) s.n) (s.cnt + k.setWidth 32) .tailed s.round)

end Sys2Proof.Machine
end

