-- ==== Sys2Proof/Machine/Comparator.lean ====
section
/-!
DEFINITION. hamming_distance_comparator: `HAMHEX` and `HAMBIN` (44_comparator.md).
-/

namespace Sys2Proof.Machine

/-- `zext_32({op, v[7:0]})`: an operand (0 A, 1 B) and a length or position (rule R80; 60_exceptions.md rule R89). -/
def operandInfo (op : BitVec 1) (v : Nat) : Word := (op ++ BitVec.ofNat 8 v).setWidth 32

/-- `OPERAND_RANGE` for A, then for B (rules R80, R81). -/
def rangeCheck (s : State) : Option (ErrCode × Word) :=
  if Config.hbufBytes < s.hlena.toNat then some (.operandRange, operandInfo 0 s.hlena.toNat)
  else if Config.hbufBytes < s.hlenb.toNat then some (.operandRange, operandInfo 1 s.hlenb.toNat)
  else none

/-- `INVALID_ENCODING` for A, then for B (rule R80). -/
def encodingCheck (s : State) : Option (ErrCode × Word) :=
  match badHexPosition (operandA s) with
  | some p => some (.invalidEncoding, operandInfo 0 p)
  | none =>
    match badHexPosition (operandB s) with
    | some p => some (.invalidEncoding, operandInfo 1 p)
    | none => none

/-- `LENGTH_MISMATCH` with `zext_32({LB[7:0], LA[7:0]})` (rules R80, R81). -/
def lengthCheck (s : State) : Option (ErrCode × Word) :=
  if s.hlena = s.hlenb then none
  else some (.lengthMismatch, (s.hlenb.setWidth 8 ++ s.hlena.setWidth 8).setWidth 32)

/-- The checks of `HAMHEX` in order; the first that fails ends the command (rule R80; 60_exceptions.md rule R91). -/
def hamhexCheck (s : State) : Option (ErrCode × Word) :=
  (rangeCheck s).or ((encodingCheck s).or (lengthCheck s))

/-- The checks of `HAMBIN` in order (rule R81; 60_exceptions.md rule R91). -/
def hambinCheck (s : State) : Option (ErrCode × Word) :=
  (rangeCheck s).or (lengthCheck s)

/-- `HAMHEX`: the Hamming distance of two hex strings (rule R80). -/
def execHamhex (s : State) : Host.Outcome State Fault Refusal :=
  afterChecks (hamhexCheck s) s
    (s.setResult (BitVec.ofNat 32 (hammingDistance (decodeHex (operandA s)) (decodeHex (operandB s)))))

/-- `HAMBIN`: the Hamming distance of two byte strings (rule R81). -/
def execHambin (s : State) : Host.Outcome State Fault Refusal :=
  afterChecks (hambinCheck s) s (s.setResult (BitVec.ofNat 32 (hammingDistance (operandA s) (operandB s))))

end Sys2Proof.Machine
end

