-- ==== Sys2Proof/Machine/Control.lean ====
section
/-!
DEFINITION. The control commands `NOP` and `CLRERR` (45_control.md).
-/

namespace Sys2Proof.Machine

/-- `NOP`: no register other than `CMD` changes, and `CMD` was stored before the command ran (rule R85). -/
def execNop (s : State) : Host.Outcome State Fault Refusal := .next s

/-- `CLRERR`: clear the error state (rule R86). -/
def execClrerr (s : State) : Host.Outcome State Fault Refusal := .next (clearErrors s)

end Sys2Proof.Machine
end

