-- ==== Sys2Proof/Machine/Finalize.lean ====
section
/-!
DEFINITION. tinyhash32_finalize_rounds: the round function, `FROUND` and `FINAL` (42_finalize.md).
-/

namespace Sys2Proof.Machine

/-- The round function `F_r(S)`: four terms from the pre-round words, then words 0 and 1 multiplied (rule R66;
the constant is written first, as in `absorbWords`). -/
def roundWords (r : Nat) (S : StateWords) : StateWords :=
  let t0 := rotl32 (S.w0 + S.w1) ((r * 3 + 5) % 32) ^^^ (S.w2 <<< (r + 1))
  let t1 := rotl32 (S.w1 + S.w2) ((r * 7 + 3) % 32) ^^^ (S.w3 >>> (r + 2))
  let t2 := rotl32 (S.w2 + S.w3) ((r * 11 + 9) % 32) ^^^ (S.w0 <<< (r + 2))
  let t3 := rotl32 (S.w3 + S.w0) ((r * 5 + 13) % 32) ^^^ (S.w1 >>> (r + 1))
  { w0 := kf0 * t0, w1 := kf1 * t1, w2 := t2, w3 := t3 }

/-- `count` rounds from round `r` on. -/
def runRounds : (count r : Nat) → StateWords → StateWords
  | 0, _, S => S
  | count + 1, r, S => runRounds count (r + 1) (roundWords r S)

/-- `for r in ROUND .. 5: S <- F_r(S)` (rule R70). -/
def remainingRounds (round : Nat) (S : StateWords) : StateWords := runRounds (6 - round) round S

/-- `Fin(S) = F_5(F_4(F_3(F_2(F_1(F_0(S))))))` (rule R71). -/
def finWords (S : StateWords) : StateWords := remainingRounds 0 S

/-- The checks of `FROUND` and `FINAL`: the session order, then `FinStart` in `ABSORB` and `TAILED` (rules R68, R69, R70). -/
def finalizeCheck (s : State) : Option (ErrCode × Word) :=
  match s.phase with
  | .idle | .done => some (.sequence, (sessionBits s).setWidth 32)
  | .absorb | .tailed => if s.cnt = s.n then none else some (.countMismatch, s.cnt)
  | .finalizing => none

/-- `FROUND`: run finalization round `ROUND` (rule R69). -/
def execFround (s : State) : Host.Outcome State Fault Refusal :=
  let next := s.round + 1
  afterChecks (finalizeCheck s) s
    (s.setSession (roundWords s.round.toNat s.S) s.cnt (if next = 6 then .done else .finalizing) next)

/-- `FINAL`: run every remaining finalization round (rule R70). -/
def execFinal (s : State) : Host.Outcome State Fault Refusal :=
  afterChecks (finalizeCheck s) s (s.setSession (remainingRounds s.round.toNat s.S) s.cnt .done 6)

end Sys2Proof.Machine
end

