-- ==== Sys2Proof/Machine/Dispatch.lean ====
section
/-!
DEFINITION. The dispatch: one arm per command (30_encoding.md rule R47). `CMD` already holds the command's word when a
meaning runs (10_state.md rule R25); a meaning that raises an error reads it there (00_scope.md rule R11).
-/

namespace Sys2Proof.Machine

/-- The effect of one command. -/
def exec (i : Instr) (s : State) : Host.Outcome State Fault Refusal :=
  match i with
  | .nop => Sys2Proof.Machine.execNop s
  | .init => Sys2Proof.Machine.execInit s
  | .absorb => Sys2Proof.Machine.execAbsorb s
  | .tail k => Sys2Proof.Machine.execTail k s
  | .fround => Sys2Proof.Machine.execFround s
  | .final => Sys2Proof.Machine.execFinal s
  | .rotl a => Sys2Proof.Machine.execRotl a s
  | .hamhex => Sys2Proof.Machine.execHamhex s
  | .hambin => Sys2Proof.Machine.execHambin s
  | .clrerr => Sys2Proof.Machine.execClrerr s

end Sys2Proof.Machine
end

