-- ==== Sys2Proof/Machine/Serializer.lean ====
section
/-!
DEFINITION. tinyhash32_state_serializer: the 16 digest bytes and the 32 hex characters as views of `S`
(43_serializer.md). It has no command.
-/

namespace Sys2Proof.Machine

/-- State word `i` (10_state.md rule R13). -/
def StateWords.get (S : StateWords) (i : Fin 4) : Word :=
  match i with
  | 0 => S.w0
  | 1 => S.w1
  | 2 => S.w2
  | 3 => S.w3

/-- `D[i] = S[i div 4][8*(i mod 4)+7 : 8*(i mod 4)]`, for `i = 0..15` (rule R72). -/
def digestByte (S : StateWords) (i : Nat) : Byte := lane (S.get (Fin.ofNat 4 (i / 4))) (i % 4)

/-- The serialized state `D[0..15]` (rule R72). -/
def digestBytes (S : StateWords) : List Byte := (List.range 16).map (digestByte S)

/-- `hexchar(v)`, for `v` in 0..15 (rule R74; PRESUMED by the spec itself, 93_implementation_defined.md G2, log entry 15). -/
def hexchar (v : BitVec 4) : Byte :=
  if v.toNat ≤ 9 then 0x30 + v.setWidth 8 else 0x61 + (v.setWidth 8 - 10)

/-- `H[2i] = hexchar(D[i][7:4])` and `H[2i+1] = hexchar(D[i][3:0])`: the high nibble first (rule R74, G1, log entry 15). -/
def hexDigit (S : StateWords) (m : Nat) : Byte :=
  if m % 2 = 0 then hexchar ((digestByte S (m / 2)).extractLsb' 4 4) else hexchar ((digestByte S (m / 2)).extractLsb' 0 4)

/-- The character string `H[0..31]` (rule R74). -/
def hexString (S : StateWords) : List Byte := (List.range 32).map (hexDigit S)

/-- The value of `HEXj`: `H[4j] | H[4j+1] << 8 | H[4j+2] << 16 | H[4j+3] << 24` (rule R75). -/
def hexWord (S : StateWords) (j : Fin 8) : Word :=
  le32 (hexDigit S (4 * j)) (hexDigit S (4 * j + 1)) (hexDigit S (4 * j + 2)) (hexDigit S (4 * j + 3))

end Sys2Proof.Machine
end

