-- ==== Sys2Proof/Machine/Window.lean ====
section
/-!
DEFINITION. The register window: which register stands at which offset, what it reads as and what a write stores
(10_state.md rules R28, R29; 20_memory.md rules R34, R36, R37), and where the window lies in the host's address space
(00_scope.md rule R8; 20_memory.md rules R32, R44).
-/

namespace Sys2Proof.Machine

/-- The registers of the window, by name (10_state.md rule R28). -/
inductive Reg where
  | CMD | STATUS | ERRCMD | ERRINFO
  | LEN | NLEN | CNT
  | DIN0 | DIN1 | OPX | RESULT | HLENA | HLENB
  | STATE (i : Fin 4)
  | HEX (j : Fin 8)
  | HBUFA (j : Fin 16)
  | HBUFB (j : Fin 16)
  | reserved
  deriving DecidableEq, Repr

/-- The register at a word-aligned offset below 0x040 (rule R28). -/
def controlRegAt (off : Nat) : Reg :=
  match off with
  | 0x000 => .CMD
  | 0x004 => .STATUS
  | 0x008 => .ERRCMD
  | 0x00C => .ERRINFO
  | 0x010 => .LEN
  | 0x014 => .NLEN
  | 0x018 => .CNT
  | 0x020 => .DIN0
  | 0x024 => .DIN1
  | 0x028 => .OPX
  | 0x02C => .RESULT
  | 0x030 => .HLENA
  | 0x034 => .HLENB
  | _ => .reserved

/-- The register at a word-aligned offset of the window (rule R28). -/
def regAt (off : Nat) : Reg :=
  if off < 0x040 then controlRegAt off
  else if off < 0x050 then .STATE (Fin.ofNat 4 ((off - 0x040) / 4))
  else if off < 0x060 then .reserved
  else if off < 0x080 then .HEX (Fin.ofNat 8 ((off - 0x060) / 4))
  else if off < 0x100 then .reserved
  else if off < 0x140 then .HBUFA (Fin.ofNat 16 ((off - 0x100) / 4))
  else if off < 0x180 then .HBUFB (Fin.ofNat 16 ((off - 0x140) / 4))
  else .reserved

/-- The value a register reads as; reading changes nothing (rules R28, R29, R37). A reserved offset reads 0 (rule R36). -/
def readReg (r : Reg) (s : State) : Word :=
  match r with
  | .CMD => s.cmd
  | .STATUS => statusWord s
  | .ERRCMD => s.errcmd
  | .ERRINFO => s.errinfo
  | .LEN => s.len
  | .NLEN => s.n
  | .CNT => s.cnt
  | .DIN0 => s.din0
  | .DIN1 => s.din1
  | .OPX => s.opx
  | .RESULT => s.result
  | .HLENA => s.hlena.setWidth 32
  | .HLENB => s.hlenb.setWidth 32
  | .STATE i => s.S.get i
  | .HEX j => hexWord s.S j
  | .HBUFA j => memReadWord s.hbuf (0x100 + 4 * j)
  | .HBUFB j => memReadWord s.hbuf (0x140 + 4 * j)
  | .reserved => 0

/-- What a write stores: the whole value in an `RW` register (bits [6:0] in the two length registers, rule R22) and in
`CMD`; nothing in an `RO` register or at a reserved offset (rules R28, R29). Executing the command that a write to
`CMD` issues is `serveEvent`'s part. -/
def storeReg (r : Reg) (v : Word) (s : State) : State :=
  match r with
  | .CMD => s.setCommand v
  | .LEN => { s with len := v }
  | .DIN0 => { s with din0 := v }
  | .DIN1 => { s with din1 := v }
  | .OPX => { s with opx := v }
  | .HLENA => { s with hlena := v.setWidth 7 }
  | .HLENB => { s with hlenb := v.setWidth 7 }
  | .HBUFA j => { s with hbuf := memWriteWord s.hbuf (0x100 + 4 * j) v }
  | .HBUFB j => { s with hbuf := memWriteWord s.hbuf (0x140 + 4 * j) v }
  | .STATUS => s
  | .ERRCMD => s
  | .ERRINFO => s
  | .NLEN => s
  | .CNT => s
  | .RESULT => s
  | .STATE _ => s
  | .HEX _ => s
  | .reserved => s

/-- The window offset of a host address, where it lies in the window of the core the platform placed at `TH_BASE`;
none where it is not this core's (rules R32, R33, R44). -/
def windowOffset (p : Config.Platform) (addr : Nat) : Option Nat :=
  if p.thBase ≤ addr ∧ addr < p.thBase + Config.windowBytes then some (addr - p.thBase) else none

/-- The host's `MemRead(addr, size)`, as it arrives at this core's port (00_scope.md rule R11). -/
def hostRead (p : Config.Platform) (addr size : Nat) : Option PortEvent :=
  (windowOffset p addr).map fun off => .read off size

/-- The host's `MemWrite(addr, size, v)`, as it arrives at this core's port (00_scope.md rule R11). -/
def hostWrite (p : Config.Platform) (addr size : Nat) (v : Word) : Option PortEvent :=
  (windowOffset p addr).map fun off => .write off size v

end Sys2Proof.Machine
end

