-- ==== Sys2Proof/Machine/Port.lean ====
section
/-!
DEFINITION. Serving the host port: one access, or one change of the reset line, is one step of the core (20_memory.md
rules R33, R37, R38; 70_reset_and_hazards.md rules R100, R104).
-/

namespace Sys2Proof.Machine

/-- Execute the word just stored in `CMD`: the decoded command, or `ILLEGAL_COMMAND` with `ERRINFO = 0` (30_encoding.md
rule R48; 60_exceptions.md rule R89). -/
def runCommand (c : Word) (s : State) : Host.Outcome State Fault Refusal :=
  match decode c with
  | .ok i => exec i s
  | .error _ => raiseError .illegalCommand 0 s

/-- A write to `CMD` stores the word and then executes it (10_state.md rule R25); every other write only stores (20_memory.md
rule R37). -/
def writeReg (r : Reg) (v : Word) (s : State) : Host.Outcome State Fault Refusal :=
  if r = .CMD then runCommand v (storeReg r v s) else .next (storeReg r v s)

/-- Serve an access of `size` bytes at `off`: stuck while reset is asserted (70_reset_and_hazards.md rule R100, U13),
refused unless it is 4 bytes wide, aligned and inside the window (20_memory.md rule R33). -/
def serveAccess (off size : Nat) (s : State) (effect : Host.Outcome State Fault Refusal) :
    Host.Outcome State Fault Refusal :=
  if s.inReset then .fault .accessInReset
  else if size ≠ 4 then .refused .accessSize
  else if off % 4 ≠ 0 then .refused .misaligned
  else if Config.windowBytes ≤ off then .refused .outsideWindow
  else effect

/-- Drive the reset input. When an asserted reset is released, every register holds its reset value; asserting it, or
releasing it when it is not asserted, changes no register (70_reset_and_hazards.md rule R100; log entry 7). -/
def driveReset (asserted : Bool) (s : State) : State :=
  if asserted then s.setResetLine true
  else if s.inReset then s.toReset
  else s

/-- Serve one event, already taken off the port. -/
def serveEvent (e : PortEvent) (s : State) : Host.Outcome State Fault Refusal :=
  match e with
  | .read off size => serveAccess off size s (.next (s.pushRead (readReg (regAt off) s)))
  | .write off size v => serveAccess off size s (writeReg (regAt off) v s)
  | .resetLine asserted => .next (driveReset asserted s)

/-- Serve the oldest event of the port. With nothing delivered the core holds all its state (60_exceptions.md rule R99;
log entry 3). -/
def servePort (s : State) : Host.Outcome State Fault Refusal :=
  match s.port with
  | [] => .next s
  | e :: rest => serveEvent e (s.setPort rest)

/-- The host's write of a word to `CMD` (30_encoding.md rule R45). -/
def commandWrite (c : Word) : PortEvent := .write 0x000 4 c

end Sys2Proof.Machine
end

