-- ==== Sys2Proof/Machine/Step.lean ====
section
/-!
DEFINITION. One step of the machine, and the placing of a command where the next step takes it.
-/

namespace Sys2Proof.Machine

/-- One step: the core serves the oldest event of its port (20_memory.md rule R38; 70_reset_and_hazards.md rules R104,
R108). -/
def step (s : State) : Host.Outcome State Fault Refusal := servePort s

/-- The state with the host's write of the table word to `CMD` at the head of the port and reset released, so that the
very next step executes it (the host's fixed name; log entry 13). -/
def State.withFetchWord (s : State) (nbits w : Nat) : State :=
  { s with port := commandWrite (BitVec.ofNat 32 (w % 2 ^ nbits)) :: s.port, inReset := false }

end Sys2Proof.Machine
end

