-- ==== Sys2Proof/Machine/Digest.lean ====
section
/-!
DEFINITION. The TinyHash32 function as a whole (43_serializer.md rule R77), and the host's access sequence that
computes it with the core (41_absorb.md rule R64; pseudo-instructions of 30_encoding.md rule R53). The step uses neither.
-/

namespace Sys2Proof.Machine

/-- `LE32(m[o..o+3])`, bytes past the end of `m` being 0, which is the tail's zero padding (41_absorb.md rules R62, R64). -/
def blockWord (m : List Byte) (o : Nat) : Word := le32 (m.getD o 0) (m.getD (o + 1) 0) (m.getD (o + 2) 0) (m.getD (o + 3) 0)

/-- The absorption loop: the first `q` full blocks of `m`, in order (rules R64, R77). -/
def absorbBlocks (m : List Byte) (q : Nat) (S : StateWords) : StateWords :=
  (List.range q).foldl (fun S i => absorbWords S (blockWord m (8 * i)) (blockWord m (8 * i + 4))) S

/-- The tail step, skipped when the length is a multiple of 8 (41_absorb.md rule R65). -/
def absorbTail (m : List Byte) (S : StateWords) : StateWords :=
  if m.length % 8 = 0 then S
  else tailWords S (blockWord m (8 * (m.length / 8))) (blockWord m (8 * (m.length / 8) + 4)) (BitVec.ofNat 32 m.length)

/-- The final state words of `TinyHash32(m)` (rule R77). -/
def tinyHash32Words (m : List Byte) : StateWords :=
  finWords (absorbTail m (absorbBlocks m (m.length / 8) (initWords (BitVec.ofNat 32 m.length))))

/-- `start n` (30_encoding.md rule R53). -/
def startEvents (n : Nat) : List PortEvent := [.write 0x010 4 (BitVec.ofNat 32 n), commandWrite (encode .init)]

/-- `block w1, w2` (30_encoding.md rule R53). -/
def blockEvents (w1 w2 : Word) : List PortEvent := [.write 0x020 4 w1, .write 0x024 4 w2, commandWrite (encode .absorb)]

/-- `tailblk k, w1, w2` (30_encoding.md rule R53). -/
def tailEvents (k : BitVec 3) (w1 w2 : Word) : List PortEvent :=
  [.write 0x020 4 w1, .write 0x024 4 w2, commandWrite (encode (.tail k))]

/-- The host's sequence for the digest of `m` (41_absorb.md rule R64). -/
def digestEvents (m : List Byte) : List PortEvent :=
  startEvents m.length
    ++ (List.range (m.length / 8)).flatMap (fun i => blockEvents (blockWord m (8 * i)) (blockWord m (8 * i + 4)))
    ++ (if m.length % 8 = 0 then []
        else tailEvents (BitVec.ofNat 3 (m.length % 8)) (blockWord m (8 * (m.length / 8))) (blockWord m (8 * (m.length / 8) + 4)))
    ++ [commandWrite (encode .final)]

end Sys2Proof.Machine
end

