-- ==== Sys2Proof/Safety.lean ====
section
/-!
DEFINITION. The terms claims are stated in: legality as rule R48 words it, recorded errors as rule R88 words them, the
invariants of the core, and which parts of two states agree. Nothing here is used by the step.
-/

namespace Sys2Proof.Safety

open Sys2Proof.Machine

/-! ### Command words -/

/-- `Legal(c)`, on the numbers of the three fields (30_encoding.md rule R48). -/
abbrev Legal (c : Word) : Prop :=
  c.toNat / 65536 = 0 ∧
    ((c.toNat % 256 ∈ [0x00, 0x01, 0x02, 0x04, 0x05, 0x07, 0x08, 0x0F] ∧ c.toNat / 256 % 256 = 0) ∨
      (c.toNat % 256 = 0x03 ∧ 1 ≤ c.toNat / 256 % 256 ∧ c.toNat / 256 % 256 ≤ 7) ∨
      (c.toNat % 256 = 0x06 ∧ c.toNat / 256 % 256 ≤ 0x3F))

/-! ### Errors -/

/-- The outcome `o` is that of a command that raises `code` with detail `info` on `s`: the first error is recorded with
the word in `CMD`, a later one only sets `ERROVF`, and nothing else changes (60_exceptions.md rules R87, R88, R90). -/
def Raises (o : Host.Outcome State Fault Refusal) (s : State) (code : ErrCode) (info : Word) : Prop :=
  (s.err = false → o = .next { s with err := true, errcode := code, errcmd := s.cmd, errinfo := info }) ∧
    (s.err = true → o = .next { s with errovf := true })

/-- `SEQUENCE` with `{ROUND, 1'b0, PHASE}` (60_exceptions.md rule R89). -/
def RaisesSequence (o : Host.Outcome State Fault Refusal) (s : State) : Prop :=
  Raises o s .sequence (BitVec.ofNat 32 (16 * s.round.toNat + s.phase.code.toNat))

/-- Finalization may run: rounds are already under way, or `FinStart` passes (42_finalize.md rules R68 to R70). -/
def FinalizeReady (s : State) : Prop :=
  s.phase = .finalizing ∨ ((s.phase = .absorb ∨ s.phase = .tailed) ∧ s.cnt = s.n)

/-- Position `p` is the one `INVALID_ENCODING` reports for the operand of `L` characters at window offset `base`: the lowest
bad character, or `L` where none is bad and `L` is odd (44_comparator.md rule R80). -/
def BadAt (m : Memory) (base L p : Nat) : Prop :=
  (p < L ∧ hexval (memRead m (base + p)) = none ∧ ∀ j < p, hexval (memRead m (base + j)) ≠ none) ∨
    (p = L ∧ L % 2 = 1 ∧ ∀ j < L, hexval (memRead m (base + j)) ≠ none)

/-- The operand is valid hexadecimal: an even number of characters, each with a `hexval` (44_comparator.md rule R79). -/
def ValidHex (m : Memory) (base L : Nat) : Prop :=
  L % 2 = 0 ∧ ∀ j < L, hexval (memRead m (base + j)) ≠ none

/-- `HAMBIN` raises no error (44_comparator.md rule R81). -/
def BinaryReady (s : State) : Prop := s.hlena.toNat ≤ 64 ∧ s.hlena = s.hlenb

/-- `HAMHEX` raises no error (44_comparator.md rule R80). -/
def HexReady (s : State) : Prop :=
  BinaryReady s ∧ ValidHex s.hbuf 0x100 s.hlena.toNat ∧ ValidHex s.hbuf 0x140 s.hlenb.toNat

/-- Byte `i` of the decoded operand at window offset `base` (44_comparator.md rule R79). -/
def decodedByte (m : Memory) (base i : Nat) : Byte :=
  (hexval (memRead m (base + 2 * i))).getD 0 * 16 + (hexval (memRead m (base + (2 * i + 1)))).getD 0

/-- The comparator command `i` raises no error on `s`. -/
def ComparatorReady (i : Instr) (s : State) : Prop := (i = .hamhex ∧ HexReady s) ∨ (i = .hambin ∧ BinaryReady s)

/-- The operands of `L` bytes at `base` in `m` and at `base'` in `m'` hold the same bytes. -/
def SameBytes (m : Memory) (base : Nat) (m' : Memory) (base' L : Nat) : Prop :=
  ∀ j < L, memRead m (base + j) = memRead m' (base' + j)

/-- `t` is `s` with the two comparator operands, buffers and lengths, exchanged (44_comparator.md rule R82). -/
def Swapped (s t : State) : Prop :=
  t.hlena = s.hlenb ∧ t.hlenb = s.hlena ∧
    ∀ j < 64, memRead t.hbuf (0x100 + j) = memRead s.hbuf (0x140 + j) ∧ memRead t.hbuf (0x140 + j) = memRead s.hbuf (0x100 + j)

/-- A check of the command `i` fails on `s`, so that it raises an error: the word is not legal, the command is out of the
session order, the byte count is wrong, or the comparator's operands are not ready (60_exceptions.md rule R91, with the
conditions of rules R61, R62, R69, R70, R80 and R81). -/
def ChecksFail (i : Instr) (s : State) : Prop :=
  match i with
  | .nop => False
  | .init => False
  | .absorb => s.phase ≠ .absorb
  | .tail k => k = 0 ∨ s.phase ≠ .absorb
  | .fround => ¬ FinalizeReady s
  | .final => ¬ FinalizeReady s
  | .rotl _ => False
  | .hamhex => ¬ HexReady s
  | .hambin => ¬ BinaryReady s
  | .clrerr => False

/-! ### What two states agree on -/

/-- The same session: `S`, `N`, `CNT`, `PHASE`, `ROUND` (70_reset_and_hazards.md rule R106). -/
def SameSession (s t : State) : Prop :=
  t.S = s.S ∧ t.n = s.n ∧ t.cnt = s.cnt ∧ t.phase = s.phase ∧ t.round = s.round

/-- The same host-written operands: the registers and buffers that "nothing in the core writes" (10_state.md rules R18,
R19, R20, R22, R23). -/
def SameOperands (s t : State) : Prop :=
  t.len = s.len ∧ t.din0 = s.din0 ∧ t.din1 = s.din1 ∧ t.opx = s.opx ∧ t.hlena = s.hlena ∧ t.hlenb = s.hlenb ∧
    ∀ a, memRead t.hbuf a = memRead s.hbuf a

/-- The same error record (10_state.md rule R26). -/
def SameErrors (s t : State) : Prop :=
  t.err = s.err ∧ t.errovf = s.errovf ∧ t.errcode = s.errcode ∧ t.errcmd = s.errcmd ∧ t.errinfo = s.errinfo

/-- The commands that leave the session alone (70_reset_and_hazards.md rule R106). -/
def isolated : Instr → Bool
  | .nop => true
  | .init => false
  | .absorb => false
  | .tail _ => false
  | .fround => false
  | .final => false
  | .rotl _ => true
  | .hamhex => true
  | .hambin => true
  | .clrerr => true

/-! ### The host's accesses -/

/-- With the core out of reset and a read of `off` delivered, the step returns `v` to the host and changes nothing else
(20_memory.md rule R37). -/
def ReadsAs (s : State) (off : Nat) (v : Word) : Prop :=
  ∀ rest, step { s with inReset := false, port := .read off 4 :: rest } =
    .next { s with inReset := false, port := rest, readData := v :: s.readData }

/-- With the core out of reset and a write of `v` to `off` delivered, the step leaves the registers of `t`. -/
def WriteLeaves (s : State) (off : Nat) (v : Word) (t : State) : Prop :=
  ∀ rest, step { s with inReset := false, port := .write off 4 v :: rest } =
    .next { t with inReset := false, port := rest, readData := s.readData }

/-! ### Invariants -/

/-- The operand buffers are in canonical form. -/
def MemoryInv (s : State) : Prop := Memory.wf s.hbuf

/-- What each phase says of the other session registers (10_state.md rules R15 to R17; 42_finalize.md rule R68). -/
def SessionInv (s : State) : Prop :=
  match s.phase with
  | .idle => s.S = State.reset.S ∧ s.n = 0 ∧ s.cnt = 0 ∧ s.round = 0
  | .absorb => s.round = 0 ∧ s.cnt.toNat % 8 = 0
  | .tailed => s.round = 0 ∧ s.cnt.toNat % 8 ≠ 0
  | .finalizing => s.cnt = s.n ∧ 1 ≤ s.round.toNat ∧ s.round.toNat ≤ 5
  | .done => s.cnt = s.n ∧ s.round = 6

/-- The error code, command word and detail of one recorded error fit one row of 60_exceptions.md rule R89. -/
def ErrorRow (code : ErrCode) (c info : Word) : Prop :=
  match code with
  | .noError => False
  | .illegalCommand => ¬ Legal c ∧ info = 0
  | .sequence => c.toNat % 256 ∈ [0x02, 0x03, 0x04, 0x05] ∧ Legal c ∧ info.toNat < 128 ∧ info.getLsbD 3 = false
  | .countMismatch => (c = 0x04 ∨ c = 0x05)
  | .operandRange => (c = 0x07 ∨ c = 0x08) ∧ ∃ op < 2, ∃ L, 64 < L ∧ L < 128 ∧ info = BitVec.ofNat 32 (256 * op + L)
  | .invalidEncoding => c = 0x07 ∧ ∃ op < 2, ∃ p ≤ 64, info = BitVec.ofNat 32 (256 * op + p)
  | .lengthMismatch =>
    (c = 0x07 ∨ c = 0x08) ∧ ∃ la ≤ 64, ∃ lb ≤ 64, la ≠ lb ∧ info = BitVec.ofNat 32 (256 * lb + la)

/-- The error record is empty, or holds a row of rule R89 (10_state.md rule R26; 60_exceptions.md rules R88, R89). -/
def ErrorInv (s : State) : Prop :=
  if s.err then ErrorRow s.errcode s.errcmd s.errinfo
  else s.errovf = false ∧ s.errcode = .noError ∧ s.errcmd = 0 ∧ s.errinfo = 0

end Sys2Proof.Safety
end

