-- ==== Sys2Proof/Certificates/Slice0/Obligations.lean ====
section
/-!
DEFINITION. The statements for the provers, in the order of the spec's files. A statement that names a log entry rests on
a choice of the model.
-/

open Sys2Proof Sys2Proof.Machine Sys2Proof.Safety

/-! ### 30_encoding.md -/

/-- Every well-formed command is read back from its word (rules R45 to R49). -/
def Obligations.DecodeInvertsEncode : Prop :=
  ∀ i : Instr, i.wellFormed = true → decode (encode i) = .ok i

/-- A word that decodes is the word of the command it decodes to, so no bit of a legal word is dropped (rules R45 to R50). -/
def Obligations.DecodedWordIsItsEncoding : Prop :=
  ∀ (c : Word) (i : Instr), decode c = .ok i → i.wellFormed = true ∧ encode i = c

/-- Rule R47: the words of each mnemonic are those its row's `match` and `mask` give (and `c[10:8] != 0` for TAIL), every
command has a row, and `k` and `a` stand in the words of TAIL and ROTL. A word no row gives does not decode, so its `OP`
or another field is reserved. -/
def Obligations.OpcodeTableGivesTheWords : Prop :=
  (∀ row ∈ opcodeTable, ∀ c : Word,
    (∃ i, decode c = .ok i ∧ i.mnemonic = row.mnemonic) ↔
      c &&& row.mask = row.pattern ∧ (row.mnemonic = "TAIL" → c.extractLsb' 8 3 ≠ 0)) ∧
    (∀ i : Instr, ∃ row ∈ opcodeTable, row.mnemonic = i.mnemonic) ∧
    (∀ k : BitVec 3, k ≠ 0 → decode ((0x00000003 : Word) ||| (k.setWidth 32 <<< 8)) = .ok (.tail k)) ∧
    ∀ a : BitVec 6, decode ((0x00000006 : Word) ||| (a.setWidth 32 <<< 8)) = .ok (.rotl a)

/-- Rule R48: a word decodes exactly when it is legal, and an illegal word written to `CMD` raises `ILLEGAL_COMMAND` with
`ERRINFO = 0` and does nothing else but stand in `CMD`. -/
def Obligations.IllegalWordsOnlyRaiseIllegalCommand : Prop :=
  (∀ c : Word, (∃ i, decode c = .ok i) ↔ Legal c) ∧
    ∀ (s : State) (c : Word) (rest : List PortEvent),
      s.inReset = false → s.port = commandWrite c :: rest → ¬ Legal c →
        Raises (step s) { s with port := rest, cmd := c } .illegalCommand 0

/-- Words written out from rule R47 and rule R49. -/
def Obligations.SampleWordsDecode : Prop :=
  decode 0x00000000 = .ok .nop ∧ decode 0x00000001 = .ok .init ∧ decode 0x00000002 = .ok .absorb ∧
    decode 0x00000703 = .ok (.tail 7) ∧ decode 0x00000004 = .ok .fround ∧ decode 0x00000005 = .ok .final ∧
    decode 0x00003F06 = .ok (.rotl 63) ∧ decode 0x00000007 = .ok .hamhex ∧ decode 0x00000008 = .ok .hambin ∧
    decode 0x0000000F = .ok .clrerr ∧ decode 0x00000003 = .error .argumentOutOfRange ∧
    decode 0x00010000 = .error .highHalfSet ∧ decode 0x00000009 = .error .reservedOpcode

/-! ### The step, the port and the register window: 10_state.md, 20_memory.md -/

/-- Rule R25 and rule R104: with the core out of reset and a word delivered that decodes, the step stores the word in
`CMD` and is then `exec` of the command; the served write is taken off the port. -/
def Obligations.StepRunsTheDecodedCommand : Prop :=
  ∀ (s : State) (c : Word) (i : Instr) (rest : List PortEvent),
    s.inReset = false → s.port = commandWrite c :: rest → decode c = .ok i →
      step s = exec i { s with port := rest, cmd := c }

/-- With nothing delivered the core holds all its state (rule R99; that it then steps at all is the model's choice, log
entry 3). -/
def Obligations.CoreWaitsForTheHost : Prop := ∀ s : State, s.port = [] → step s = .next s

/-- Where a step stops and where it does not (rule R33; U13; log entries 6 and 7 for the offsets at or above 0x200 and
for the reset line). Every other delivery is answered by a next state, and so is a step with nothing delivered, which is
the model's (log entry 3, from rule R99). -/
def Obligations.OnlyUndefinedAccessesStop : Prop :=
  ∀ s : State,
    match s.port with
    | [] => ∃ t, step s = .next t
    | .resetLine _ :: _ => ∃ t, step s = .next t
    | .read off size :: _ | .write off size _ :: _ =>
      (s.inReset = true → step s = .fault .accessInReset) ∧
        (s.inReset = false → size ≠ 4 → step s = .refused .accessSize) ∧
        (s.inReset = false → size = 4 → off % 4 ≠ 0 → step s = .refused .misaligned) ∧
        (s.inReset = false → size = 4 → off % 4 = 0 → 0x200 ≤ off → step s = .refused .outsideWindow) ∧
        (s.inReset = false → size = 4 → off % 4 = 0 → off < 0x200 → ∃ t, step s = .next t)

/-- What the register at each offset of the window reads as, and that the read changes nothing (rules R28, R34, R37). -/
def Obligations.RegisterReads : Prop :=
  ∀ s : State,
    ReadsAs s 0x000 s.cmd ∧ ReadsAs s 0x004 (statusWord s) ∧ ReadsAs s 0x008 s.errcmd ∧ ReadsAs s 0x00C s.errinfo ∧
      ReadsAs s 0x010 s.len ∧ ReadsAs s 0x014 s.n ∧ ReadsAs s 0x018 s.cnt ∧ ReadsAs s 0x020 s.din0 ∧
      ReadsAs s 0x024 s.din1 ∧ ReadsAs s 0x028 s.opx ∧ ReadsAs s 0x02C s.result ∧
      ReadsAs s 0x030 (BitVec.ofNat 32 s.hlena.toNat) ∧ ReadsAs s 0x034 (BitVec.ofNat 32 s.hlenb.toNat) ∧
      ReadsAs s 0x040 s.S.w0 ∧ ReadsAs s 0x044 s.S.w1 ∧ ReadsAs s 0x048 s.S.w2 ∧ ReadsAs s 0x04C s.S.w3 ∧
      (∀ j < 8, ∃ v, ReadsAs s (0x060 + 4 * j) v ∧ ∀ i < 4, v.extractLsb' (8 * i) 8 = hexDigit s.S (4 * j + i)) ∧
      (∀ j < 16, ∃ v, ReadsAs s (0x100 + 4 * j) v ∧
        ∀ i < 4, v.extractLsb' (8 * i) 8 = memRead s.hbuf (0x100 + (4 * j + i))) ∧
      ∀ j < 16, ∃ v, ReadsAs s (0x140 + 4 * j) v ∧
        ∀ i < 4, v.extractLsb' (8 * i) 8 = memRead s.hbuf (0x140 + (4 * j + i))

/-- What a write to each offset other than `CMD` leaves: an `RW` register holds the value (its bits [6:0] for the two
lengths), a buffer word its four lanes, and a write to an `RO` register changes nothing; every other register is
unchanged (rules R22, R28, R29, R37). The buffers are in canonical form, an invariant of the
model. -/
def Obligations.RegisterWrites : Prop :=
  ∀ (s : State) (v : Word), MemoryInv s →
    WriteLeaves s 0x010 v { s with len := v } ∧ WriteLeaves s 0x020 v { s with din0 := v } ∧
      WriteLeaves s 0x024 v { s with din1 := v } ∧ WriteLeaves s 0x028 v { s with opx := v } ∧
      WriteLeaves s 0x030 v { s with hlena := v.extractLsb' 0 7 } ∧
      WriteLeaves s 0x034 v { s with hlenb := v.extractLsb' 0 7 } ∧
      (∀ off, off % 4 = 0 → 0x100 ≤ off → off < 0x180 → ∃ m, WriteLeaves s off v { s with hbuf := m } ∧
        ∀ a, memRead m a = if off ≤ a ∧ a < off + 4 then v.extractLsb' (8 * (a - off)) 8 else memRead s.hbuf a) ∧
      ∀ off, off % 4 = 0 →
        (0x004 ≤ off ∧ off < 0x010) ∨ (0x014 ≤ off ∧ off < 0x01C) ∨ off = 0x02C ∨ (0x040 ≤ off ∧ off < 0x050) ∨
          (0x060 ≤ off ∧ off < 0x080) → WriteLeaves s off v s

/-- Rule R36: "A read of a reserved offset of the window (`10_state.md` rule R28) returns 0. A write to one changes no
state." -/
def Obligations.ReservedOffsetsAreInert : Prop :=
  ∀ (s : State) (off : Nat) (v : Word), off % 4 = 0 →
    off = 0x01C ∨ (0x038 ≤ off ∧ off < 0x040) ∨ (0x050 ≤ off ∧ off < 0x060) ∨ (0x080 ≤ off ∧ off < 0x100) ∨
      (0x180 ≤ off ∧ off < 0x200) →
    ReadsAs s off 0 ∧ WriteLeaves s off v s

/-- Rule R37: "Writing the same value twice to a register other than `CMD` has the same effect as writing it once." -/
def Obligations.WritingTwiceIsWritingOnce : Prop :=
  ∀ (s : State) (off : Nat) (v : Word), MemoryInv s → off % 4 = 0 → off < 0x200 → off ≠ 0 →
    ∃ t, WriteLeaves s off v t ∧ WriteLeaves t off v t

/-- Two canonical memories that read the same are equal data (log entry 9). -/
def Obligations.CanonicalMemoriesAreEqual : Prop :=
  ∀ m m' : Memory, Memory.wf m → Memory.wf m' → (∀ a, memRead m a = memRead m' a) → m = m'

/-- The window of the core at `TH_BASE` is the 512 addresses from there on, and the windows of cores at different bases
share no address (rules R8, R32, R44, R97). -/
def Obligations.WindowsAreDisjoint : Prop :=
  (∀ (p : Config.Platform) (addr off : Nat), windowOffset p addr = some off ↔ off < 512 ∧ addr = p.thBase + off) ∧
    ∀ (p q : Config.Platform) (addr : Nat), p.thBase ≠ q.thBase → windowOffset p addr ≠ none → windowOffset q addr = none

/-- Rule R27: `STATUS` is read-only, its fields, its hardwired zeros, its reset value, and what it reads as after a complete
session with no error. With the five phase codes of rule R16 and the seven error codes of rule R89 as numbers. -/
def Obligations.StatusLayout : Prop :=
  ∀ s : State,
    (∀ v, ReadsAs s 0x004 (statusWord s) ∧ WriteLeaves s 0x004 v s) ∧
      (statusWord s).extractLsb' 0 3 = s.phase.code ∧ (statusWord s).getLsbD 3 = false ∧
      (statusWord s).extractLsb' 4 3 = s.round ∧ (statusWord s).getLsbD 7 = false ∧
      (statusWord s).getLsbD 8 = s.err ∧ (statusWord s).getLsbD 9 = s.errovf ∧
      (statusWord s).extractLsb' 10 2 = 0 ∧ (statusWord s).extractLsb' 12 4 = s.errcode.code ∧
      (statusWord s).extractLsb' 16 16 = 0 ∧ statusWord State.reset = 0 ∧
      (s.phase = .done → s.round = 6 → s.err = false → s.errovf = false → s.errcode = .noError → statusWord s = 0x00000064) ∧
      ([.idle, .absorb, .tailed, .finalizing, .done] : List Phase).map (fun p => p.code.toNat) = [0, 1, 2, 3, 4] ∧
      ([.noError, .illegalCommand, .sequence, .countMismatch, .operandRange, .invalidEncoding, .lengthMismatch] :
        List ErrCode).map (fun e => e.code.toNat) = [0, 1, 2, 3, 4, 5, 6]

/-- Every command answers a next state, and leaves the operand registers, the buffers, `CMD`, the reset input and the
port as they are; only `INIT` writes `N`, only `ROTL`, `HAMHEX` and `HAMBIN` write `RESULT`, and only the five digest
commands write `S`, `CNT`, `PHASE` and `ROUND` (rules R13 to R23, R25). -/
def Obligations.WhatCommandsMayWrite : Prop :=
  ∀ (i : Instr) (s : State), ∃ t, exec i s = .next t ∧
    SameOperands s t ∧ t.cmd = s.cmd ∧ t.inReset = s.inReset ∧ t.port = s.port ∧ t.readData = s.readData ∧
      (t.n ≠ s.n → i = .init) ∧ (t.result ≠ s.result → i = .hamhex ∨ i = .hambin ∨ ∃ a, i = .rotl a) ∧
      (¬ SameSession s t → isolated i = false)

/-- Rule R16: "No command writes it back to `IDLE`. Only reset does." That the release of reset does it, and not its
assertion, is the model's (log entry 7). -/
def Obligations.OnlyResetReturnsToIdle : Prop :=
  ∀ s t : State, step s = .next t → s.phase ≠ .idle → t.phase = .idle →
    s.inReset = true ∧ ∃ rest, s.port = .resetLine false :: rest

/-! ### 40_rotate.md -/

/-- Rule R54: the formula of `rotl32`, and bit `i` of the result is bit `(i - s) mod 32` of `x`. -/
def Obligations.RotateFormula : Prop :=
  ∀ (x : Word) (r : Nat),
    (r % 32 = 0 → rotl32 x r = x) ∧
      (r % 32 ≠ 0 → rotl32 x r = (x <<< (r % 32)) ||| (x >>> (32 - r % 32))) ∧
      ∀ i < 32, (rotl32 x r).getLsbD i = x.getLsbD ((((i : Int) - (r % 32 : Nat)) % 32).toNat)

/-- Rule R56: the laws of `rotl32`. -/
def Obligations.RotateLaws : Prop :=
  (∀ (x : Word) (r : Nat), r < 32 → rotl32 (rotl32 x r) (32 - r) = x) ∧
    (∀ (x : Word) (a b : Nat), rotl32 (rotl32 x a) b = rotl32 x (a + b)) ∧
    (∀ (x : Word) (r : Nat), rotl32 x r = rotl32 x (r % 32)) ∧
    (∀ (x : Word) (r : Nat),
      (Finset.univ.filter fun i : Fin 32 => (rotl32 x r).getLsbD i = true).card =
        (Finset.univ.filter fun i : Fin 32 => x.getLsbD i = true).card) ∧
    ∀ (x y : Word) (r : Nat), rotl32 (x ^^^ y) r = rotl32 x r ^^^ rotl32 y r

/-- Rule R55: `ROTL a` writes `OPX` rotated left by `a mod 32` to `RESULT` and nothing else, in every phase; `a = 0` and
`a = 32` return `OPX`, and 0 and 0xFFFFFFFF are fixed points. -/
def Obligations.RotlRotatesOpx : Prop :=
  ∀ (s : State) (a : BitVec 6),
    decode ((0x00000006 : Word) ||| (a.setWidth 32 <<< 8)) = .ok (.rotl a) ∧
      exec (.rotl a) s = .next { s with result := s.opx.rotateLeft (a.toNat % 32) } ∧
      (a = 0 ∨ a = 32 → exec (.rotl a) s = .next { s with result := s.opx }) ∧
      (s.opx = 0 ∨ s.opx = 0xFFFFFFFF → exec (.rotl a) s = .next { s with result := s.opx })

/-! ### 41_absorb.md -/

/-- Rule R59: `INIT` in every phase, with the numbers of its formulas; nothing else changes, the errors among it. -/
def Obligations.InitOpensSession : Prop :=
  decode 0x00000001 = .ok .init ∧ ∀ s : State, ∃ S : StateWords,
    exec .init s = .next { s with S := S, n := s.len, cnt := 0, round := 0, phase := .absorb } ∧
      S.w0.toNat = 0x243F6A88 ^^^ s.len.toNat ∧ S.w1.toNat = 0x85A308D3 ∧ S.w2.toNat = 0x13198A2E ∧
      S.w3.toNat = 0x03707344 ^^^ (s.len.toNat * 8 % 2 ^ 32)

/-- Rule R61: `ABSORB` raises `SEQUENCE` outside phase `ABSORB`; there it makes the eight updates in strict order, adds 8
to `CNT` and changes nothing else. -/
def Obligations.AbsorbFoldsBlock : Prop :=
  decode 0x00000002 = .ok .absorb ∧ ∀ s : State,
    (s.phase ≠ .absorb → RaisesSequence (exec .absorb s) s) ∧
      (s.phase = .absorb →
        let w1 := s.din0
        let w2 := s.din1
        let a0 := s.S.w0 + w1
        let a1 := s.S.w1 ^^^ w2
        let a2 := s.S.w2 + (w1 ^^^ a1).rotateLeft 5
        let a3 := s.S.w3 ^^^ (w2 + a0).rotateLeft 11
        let b0 := (0x9E3779B1 : Word) * (a0 ^^^ a3).rotateLeft 7
        let b1 := (0x85EBCA6B : Word) * (a1 + b0).rotateLeft 13
        let b2 := (0xC2B2AE35 : Word) * (a2 ^^^ b1).rotateLeft 17
        let b3 := (0x27D4EB2F : Word) * (a3 + b2).rotateLeft 19
        exec .absorb s = .next { s with S := { w0 := b0, w1 := b1, w2 := b2, w3 := b3 }, cnt := s.cnt + 8 })

/-- Rule R61, corner case: for fixed block words the update of `ABSORB` is an invertible map of `S`. -/
def Obligations.AbsorbIsInvertible : Prop :=
  ∀ w1 w2 : Word, Function.Bijective fun S : StateWords => absorbWords S w1 w2

/-- Rule R62: `TAIL k`. `k = 0` is the illegal word; outside phase `ABSORB` it raises `SEQUENCE`; else, with `w1`, `w2` the
block words whose lanes `k..7` are 0, it makes the four updates, adds `k` to `CNT`, enters `TAILED` and changes nothing
else. (That `exec` answers for `k = 0` at all is the model's, log entry 11.) -/
def Obligations.TailFoldsPaddedBlock : Prop :=
  ∀ (s : State) (k : BitVec 3),
    (k ≠ 0 → decode ((0x00000003 : Word) ||| (k.setWidth 32 <<< 8)) = .ok (.tail k)) ∧
      (k = 0 → Raises (exec (.tail k) s) s .illegalCommand 0) ∧
      (k ≠ 0 → s.phase ≠ .absorb → RaisesSequence (exec (.tail k) s) s) ∧
      (k ≠ 0 → s.phase = .absorb → ∀ w1 w2 : Word,
        (∀ i < 4, w1.extractLsb' (8 * i) 8 = if i < k.toNat then s.din0.extractLsb' (8 * i) 8 else 0) →
        (∀ i < 4, w2.extractLsb' (8 * i) 8 = if i + 4 < k.toNat then s.din1.extractLsb' (8 * i) 8 else 0) →
        exec (.tail k) s = .next { s with
          S := { w0 := s.S.w0 + (w1 ^^^ (s.n <<< 3)), w1 := s.S.w1 ^^^ (w2 + s.n),
                 w2 := s.S.w2 + w1.rotateLeft 3, w3 := s.S.w3 ^^^ w2.rotateLeft 7 },
          cnt := s.cnt + BitVec.ofNat 32 k.toNat, phase := .tailed })

/-- Rule R62: "Lanes `k..7` of `DIN0`/`DIN1` are ignored, whatever they hold"; and for `k <= 4`, `S[3]` is unchanged and
`S[1] <- S[1] ^ N`. -/
def Obligations.TailIgnoresStaleLanes : Prop :=
  ∀ (s : State) (k : BitVec 3) (d0 d1 : Word),
    (∀ i < 4, i < k.toNat → d0.extractLsb' (8 * i) 8 = s.din0.extractLsb' (8 * i) 8) →
    (∀ i < 4, i + 4 < k.toNat → d1.extractLsb' (8 * i) 8 = s.din1.extractLsb' (8 * i) 8) →
    ∃ t, exec (.tail k) s = .next t ∧
      exec (.tail k) { s with din0 := d0, din1 := d1 } = .next { t with din0 := d0, din1 := d1 } ∧
      (s.phase = .absorb → k ≠ 0 → k.toNat ≤ 4 → t.S.w3 = s.S.w3 ∧ t.S.w1 = s.S.w1 ^^^ s.n)

/-! ### 42_finalize.md -/

/-- Rule R66: the round function, with the constants written out. -/
def Obligations.RoundFunction : Prop :=
  ∀ (S : StateWords) (r : Nat), r < 6 →
    roundWords r S =
      { w0 := (0xDEADBEEF : Word) * ((S.w0 + S.w1).rotateLeft ((r * 3 + 5) % 32) ^^^ (S.w2 <<< (r + 1))),
        w1 := (0xBEEFDEAD : Word) * ((S.w1 + S.w2).rotateLeft ((r * 7 + 3) % 32) ^^^ (S.w3 >>> (r + 2))),
        w2 := (S.w2 + S.w3).rotateLeft ((r * 11 + 9) % 32) ^^^ (S.w0 <<< (r + 2)),
        w3 := (S.w3 + S.w0).rotateLeft ((r * 5 + 13) % 32) ^^^ (S.w1 >>> (r + 1)) }

/-- Rule R67: the amounts of each round, row by row of its table. -/
def Obligations.RoundAmounts : Prop :=
  ∀ (S : StateWords) (r a0 a1 a2 a3 l0 r1 l2 r3 : Nat),
    [r, a0, a1, a2, a3, l0, r1, l2, r3] ∈
      ([[0, 5, 3, 9, 13, 1, 2, 2, 1], [1, 8, 10, 20, 18, 2, 3, 3, 2], [2, 11, 17, 31, 23, 3, 4, 4, 3],
        [3, 14, 24, 10, 28, 4, 5, 5, 4], [4, 17, 31, 21, 1, 5, 6, 6, 5], [5, 20, 6, 0, 6, 6, 7, 7, 6]] : List (List Nat)) →
    roundWords r S =
      { w0 := (0xDEADBEEF : Word) * ((S.w0 + S.w1).rotateLeft a0 ^^^ (S.w2 <<< l0)),
        w1 := (0xBEEFDEAD : Word) * ((S.w1 + S.w2).rotateLeft a1 ^^^ (S.w3 >>> r1)),
        w2 := (S.w2 + S.w3).rotateLeft a2 ^^^ (S.w0 <<< l2),
        w3 := (S.w3 + S.w0).rotateLeft a3 ^^^ (S.w1 >>> r3) }

/-- Rules R68 and R69: `FROUND` raises `SEQUENCE` in `IDLE` and `DONE` and `COUNT_MISMATCH` at the start of finalization
with `CNT != N`; else it runs round `ROUND`, adds 1 to `ROUND` and enters `DONE` after round 5, `FINALIZING` before. -/
def Obligations.FroundRunsOneRound : Prop :=
  decode 0x00000004 = .ok .fround ∧ ∀ s : State,
    (s.phase = .idle ∨ s.phase = .done → RaisesSequence (exec .fround s) s) ∧
      ((s.phase = .absorb ∨ s.phase = .tailed) → s.cnt ≠ s.n → Raises (exec .fround s) s .countMismatch s.cnt) ∧
      (FinalizeReady s → s.round.toNat ≤ 5 →
        exec .fround s = .next { s with
          S := roundWords s.round.toNat s.S, round := BitVec.ofNat 3 (s.round.toNat + 1),
          phase := if s.round.toNat = 5 then .done else .finalizing })

/-- Rules R68 and R70: `FINAL` raises what `FROUND` raises; else it runs the rounds `ROUND` to 5 in order, sets `ROUND` to 6
and enters `DONE`. -/
def Obligations.FinalRunsTheRemainingRounds : Prop :=
  decode 0x00000005 = .ok .final ∧ ∀ s : State,
    (s.phase = .idle ∨ s.phase = .done → RaisesSequence (exec .final s) s) ∧
      ((s.phase = .absorb ∨ s.phase = .tailed) → s.cnt ≠ s.n → Raises (exec .final s) s .countMismatch s.cnt) ∧
      (FinalizeReady s →
        exec .final s = .next { s with
          S := ((List.range 6).filter fun r => s.round.toNat ≤ r).foldl (fun S r => roundWords r S) s.S,
          round := 6, phase := .done })

/-- Rule R70: "The final state is the same for every split of the six rounds between `FROUND` and `FINAL`." One `FROUND`
before `FINAL` changes nothing of what `FINAL` leaves, and the last `FROUND` is `FINAL`. -/
def Obligations.FinalAfterFroundIsFinal : Prop :=
  ∀ s : State, FinalizeReady s →
    (s.round.toNat < 5 → ∃ t, exec .fround s = .next t ∧ exec .final t = exec .final s) ∧
      (s.round.toNat = 5 → exec .fround s = exec .final s)

/-- Rule R65: a `TAIL` issued when `N mod 8 = 0` is caught, since finalization then raises `COUNT_MISMATCH`. The state meets the
session invariant, by which a tail leaves `CNT` off every multiple of 8. -/
def Obligations.UnneededTailIsCaught : Prop :=
  ∀ (s : State) (i : Instr), SessionInv s → s.phase = .tailed → s.n.toNat % 8 = 0 → i = .fround ∨ i = .final →
    Raises (exec i s) s .countMismatch s.cnt

/-- Rules R71 and R76: in `DONE` no step changes `S` but an `INIT` command and the release of reset. That its assertion does
not is the model's (log entry 7). -/
def Obligations.DigestIsFixedWhenDone : Prop :=
  ∀ s t : State, step s = .next t → s.phase = .done → t.S ≠ s.S →
    (∃ c rest, s.port = commandWrite c :: rest ∧ decode c = .ok .init) ∨
      (s.inReset = true ∧ ∃ rest, s.port = .resetLine false :: rest)

/-! ### 43_serializer.md -/

/-- Rules R72 and R74: the digest bytes, and the 32 characters, high nibble first and lowercase. -/
def Obligations.SerializerBytesAndCharacters : Prop :=
  ∀ S : StateWords,
    (∀ i < 16, digestByte S i = ([S.w0, S.w1, S.w2, S.w3].getD (i / 4) 0).extractLsb' (8 * (i % 4)) 8) ∧
      (∀ i < 16, hexDigit S (2 * i) = hexchar ((digestByte S i).extractLsb' 4 4) ∧
        hexDigit S (2 * i + 1) = hexchar ((digestByte S i).extractLsb' 0 4)) ∧
      ∀ v : BitVec 4, (hexchar v).toNat = if v.toNat ≤ 9 then 0x30 + v.toNat else 0x61 + (v.toNat - 10)

/-- The serializer's 32 characters are valid hexadecimal and decode to the 16 digest bytes (rules R74, R79). -/
def Obligations.HexStringDecodesToDigest : Prop :=
  ∀ S : StateWords, badHexPosition (hexString S) = none ∧ decodeHex (hexString S) = digestBytes S

/-- Rules R64 and R77: from any state out of reset, the host's sequence for `m` leaves the state words of
`TinyHash32(m)`, in phase `DONE` with six rounds done, raises no error, and takes exactly its own accesses off the port. -/
def Obligations.HostSequenceComputesTinyHash32 : Prop :=
  ∀ (m : List Byte) (s : State) (rest : List PortEvent),
    s.inReset = false → s.port = digestEvents m ++ rest →
      ∃ t : State, Host.Core.run Sys2Proof.core (digestEvents m).length s = .next t ∧
        t.S = tinyHash32Words m ∧ t.phase = .done ∧ t.round = 6 ∧ SameErrors s t ∧ t.port = rest

/-! ### 44_comparator.md -/

/-- Rule R79: `hexval` on every character code, the valid strings (`badHexPosition` finds no bad position in them), and
`Decode`. -/
def Obligations.HexDecoding : Prop :=
  (∀ c : Byte,
    (0x30 ≤ c.toNat ∧ c.toNat ≤ 0x39 → (hexval c).map BitVec.toNat = some (c.toNat - 0x30)) ∧
      (0x61 ≤ c.toNat ∧ c.toNat ≤ 0x66 → (hexval c).map BitVec.toNat = some (c.toNat - 0x61 + 10)) ∧
      (0x41 ≤ c.toNat ∧ c.toNat ≤ 0x46 → (hexval c).map BitVec.toNat = some (c.toNat - 0x41 + 10)) ∧
      (c.toNat < 0x30 ∨ (0x39 < c.toNat ∧ c.toNat < 0x41) ∨ (0x46 < c.toNat ∧ c.toNat < 0x61) ∨ 0x66 < c.toNat →
        hexval c = none)) ∧
    ∀ xs : List Byte,
      (badHexPosition xs = none ↔ xs.length % 2 = 0 ∧ ∀ c ∈ xs, hexval c ≠ none) ∧
        (badHexPosition xs = none → (decodeHex xs).length = xs.length / 2 ∧
          ∀ i hi lo, xs[2 * i]? = some hi → xs[2 * i + 1]? = some lo →
            ((decodeHex xs)[i]?).map BitVec.toNat =
              some (((hexval hi).getD 0).toNat * 16 + ((hexval lo).getD 0).toNat))

/-- The Hamming distance of two byte strings of one length is the number of bit positions at which they differ (rule R12). -/
def Obligations.DistanceCountsDifferingBits : Prop :=
  ∀ xs ys : List Byte, xs.length = ys.length →
    hammingDistance xs ys =
      (Finset.univ.filter fun p : Fin xs.length × Fin 8 =>
        (xs.getD p.1 0).getLsbD p.2 ≠ (ys.getD p.1 0).getLsbD p.2).card

/-- Rule R80: `HAMHEX`, its checks in order and its result. -/
def Obligations.HamhexComparesHexStrings : Prop :=
  decode 0x00000007 = .ok .hamhex ∧ ∀ s : State,
    let la := s.hlena.toNat
    let lb := s.hlenb.toNat
    (64 < la → Raises (exec .hamhex s) s .operandRange (BitVec.ofNat 32 la)) ∧
      (la ≤ 64 → 64 < lb → Raises (exec .hamhex s) s .operandRange (BitVec.ofNat 32 (256 + lb))) ∧
      (la ≤ 64 → lb ≤ 64 → ∀ p, BadAt s.hbuf 0x100 la p →
        Raises (exec .hamhex s) s .invalidEncoding (BitVec.ofNat 32 p)) ∧
      (la ≤ 64 → lb ≤ 64 → ValidHex s.hbuf 0x100 la → ∀ p, BadAt s.hbuf 0x140 lb p →
        Raises (exec .hamhex s) s .invalidEncoding (BitVec.ofNat 32 (256 + p))) ∧
      (la ≤ 64 → lb ≤ 64 → ValidHex s.hbuf 0x100 la → ValidHex s.hbuf 0x140 lb → la ≠ lb →
        Raises (exec .hamhex s) s .lengthMismatch (BitVec.ofNat 32 (256 * lb + la))) ∧
      (HexReady s → exec .hamhex s = .next { s with
        result := BitVec.ofNat 32
          (∑ i ∈ Finset.range (la / 2), popcount (decodedByte s.hbuf 0x100 i ^^^ decodedByte s.hbuf 0x140 i)) })

/-- Rule R81: `HAMBIN`, its checks in order and its result. -/
def Obligations.HambinComparesBytes : Prop :=
  decode 0x00000008 = .ok .hambin ∧ ∀ s : State,
    let la := s.hlena.toNat
    let lb := s.hlenb.toNat
    (64 < la → Raises (exec .hambin s) s .operandRange (BitVec.ofNat 32 la)) ∧
      (la ≤ 64 → 64 < lb → Raises (exec .hambin s) s .operandRange (BitVec.ofNat 32 (256 + lb))) ∧
      (la ≤ 64 → lb ≤ 64 → la ≠ lb →
        Raises (exec .hambin s) s .lengthMismatch (BitVec.ofNat 32 (256 * lb + la))) ∧
      (BinaryReady s → exec .hambin s = .next { s with
        result := BitVec.ofNat 32
          (∑ j ∈ Finset.range la, popcount (memRead s.hbuf (0x100 + j) ^^^ memRead s.hbuf (0x140 + j))) })

/-- Rule R83: on valid operands of equal length `HAMHEX` is the sum of the per-character nibble distances. -/
def Obligations.HamhexIsNibbleDistance : Prop :=
  ∀ s : State, HexReady s →
    exec .hamhex s = .next { s with
      result := BitVec.ofNat 32
        (∑ j ∈ Finset.range s.hlena.toNat,
          popcount ((hexval (memRead s.hbuf (0x100 + j))).getD 0 ^^^ (hexval (memRead s.hbuf (0x140 + j))).getD 0)) }

/-- Rule R82: where a comparator raises no error, equal operands give 0, exchanging the operands keeps the result, the
result is at most 8 times the decoded length, and it is 0 exactly when the decoded bytes are equal. -/
def Obligations.DistanceIsSymmetricBoundedAndExact : Prop :=
  ∀ (i : Instr) (s t : State), ComparatorReady i s → exec i s = .next t →
    (SameBytes s.hbuf 0x100 s.hbuf 0x140 s.hlena.toNat → t.result = 0) ∧
      (∀ s' t', Swapped s s' → exec i s' = .next t' → t'.result = t.result) ∧
      (i = .hamhex → t.result.toNat ≤ 8 * (s.hlena.toNat / 2) ∧
        (t.result = 0 ↔ ∀ j < s.hlena.toNat / 2, decodedByte s.hbuf 0x100 j = decodedByte s.hbuf 0x140 j)) ∧
      (i = .hambin → t.result.toNat ≤ 8 * s.hlena.toNat ∧
        (t.result = 0 ↔ SameBytes s.hbuf 0x100 s.hbuf 0x140 s.hlena.toNat))

/-- Rule R82: the triangle inequality `d(X, Z) <= d(X, Y) + d(Y, Z)`, for operands of one length on which the command
raises no error. -/
def Obligations.DistanceTriangleInequality : Prop :=
  ∀ (i : Instr) (xy yz xz t1 t2 t3 : State),
    ComparatorReady i xy → ComparatorReady i yz → ComparatorReady i xz →
    yz.hlena = xy.hlena → xz.hlena = xy.hlena →
    SameBytes xz.hbuf 0x100 xy.hbuf 0x100 xy.hlena.toNat →
    SameBytes yz.hbuf 0x100 xy.hbuf 0x140 xy.hlena.toNat →
    SameBytes xz.hbuf 0x140 yz.hbuf 0x140 xy.hlena.toNat →
    exec i xy = .next t1 → exec i yz = .next t2 → exec i xz = .next t3 →
      t3.result.toNat ≤ t1.result.toNat + t2.result.toNat

/-- Rule R82: "Swapping two invalid operands can change `ERRINFO`, but not `ERRCODE`." -/
def Obligations.SwappingKeepsTheErrorCode : Prop :=
  ∀ (i : Instr) (s s' t t' : State), (i = .hamhex ∨ i = .hambin) → Swapped s s' → s.err = false → s'.err = false →
    s.errcode = .noError → s'.errcode = .noError → exec i s = .next t → exec i s' = .next t' → t'.errcode = t.errcode

/-! ### 45_control.md -/

/-- Rules R85 and R86: `NOP` changes nothing; `CLRERR` clears the five error fields and nothing else, so that
`STATUS[9:8]` and `STATUS[15:12]` read 0 and the other bits of `STATUS` are unchanged. -/
def Obligations.ControlCommands : Prop :=
  decode 0x00000000 = .ok .nop ∧ decode 0x0000000F = .ok .clrerr ∧ ∀ s : State,
    exec .nop s = .next s ∧
      exec .clrerr s =
        .next { s with err := false, errovf := false, errcode := .noError, errcmd := 0, errinfo := 0 } ∧
      ∀ t, exec .clrerr s = .next t →
        ∀ b, (statusWord t).getLsbD b = ((statusWord s).getLsbD b && !(decide (b = 8 ∨ b = 9 ∨ (12 ≤ b ∧ b ≤ 15))))

/-! ### 60_exceptions.md -/

/-- Rules R88 and R90: a command other than `CLRERR` one of whose checks fails records its error and changes nothing else,
whatever the error record holds: the first error with its code, the word in `CMD` and its detail, a later one in `ERROVF`
alone. One whose checks pass leaves the error record as it is. -/
def Obligations.ErrorsAreRecordedWithoutOtherEffect : Prop :=
  ∀ (i : Instr) (s : State), i ≠ .clrerr →
    (ChecksFail i s → ∃ code info, code ≠ .noError ∧ Raises (exec i s) s code info) ∧
      (¬ ChecksFail i s → ∃ t, exec i s = .next t ∧ SameErrors s t)

/-- Rule R92: no value of `LEN`, `DIN0`, `DIN1` or `S` makes a digest command raise an error; whether one does depends on
the phase and on `CNT = N` alone, and `INIT` and `ROTL` never do. -/
def Obligations.DigestCommandsAreTotal : Prop :=
  ∀ (i : Instr) (s t : State), exec i s = .next t →
    (i = .init ∨ (∃ a, i = .rotl a) → SameErrors s t) ∧
      (i = .absorb ∨ (∃ k, i = .tail k ∧ k ≠ 0) → s.phase = .absorb → SameErrors s t) ∧
      (i = .fround ∨ i = .final → FinalizeReady s → SameErrors s t)

/-! ### 70_reset_and_hazards.md -/

/-- Rules R101 and R28: what every offset of the window reads as after reset, and that reset is then released. -/
def Obligations.ResetReads : Prop :=
  (∀ off, off % 4 = 0 → off < 0x200 →
    ReadsAs State.reset off (if 0x060 ≤ off ∧ off < 0x080 then 0x30303030 else 0)) ∧
    State.reset.phase = .idle ∧ State.reset.round = 0 ∧ State.reset.err = false ∧ State.reset.errovf = false ∧
    State.reset.errcode = .noError ∧ State.reset.inReset = false ∧ ∀ a, memRead State.reset.hbuf a = 0

/-- Rule R100: while reset is asserted the core accepts no access, and when it is released every register holds its reset
value and the core accepts accesses again. (How the reset line reaches the step, and that asserting it changes no register yet, is the model's, log entry 7.) -/
def Obligations.ReleasingResetRestoresEveryRegister : Prop :=
  ∀ (s : State) (rest : List PortEvent),
    (s.port = .resetLine true :: rest → step s = .next { s with inReset := true, port := rest }) ∧
      (s.inReset = true → s.port = .resetLine false :: rest →
        step s = .next { State.reset with inReset := false, port := rest, readData := s.readData }) ∧
      (s.inReset = true → ∀ off size v, s.port = .read off size :: rest ∨ s.port = .write off size v :: rest →
        step s = .fault .accessInReset)

/-- Rule R102: after reset the phase is `IDLE`, `ABSORB`, `TAIL`, `FROUND` and `FINAL` raise `SEQUENCE`, and the other
commands are accepted: they raise no error. -/
def Obligations.CommandsAcceptedAfterReset : Prop :=
  State.reset.phase = .idle ∧ RaisesSequence (exec .absorb State.reset) State.reset ∧
    (∀ k : BitVec 3, k ≠ 0 → RaisesSequence (exec (.tail k) State.reset) State.reset) ∧
    RaisesSequence (exec .fround State.reset) State.reset ∧ RaisesSequence (exec .final State.reset) State.reset ∧
    ∀ i : Instr, (i = .init ∨ isolated i = true) → ∃ t, exec i State.reset = .next t ∧ SameErrors State.reset t

/-- Rule R105: a write to a register other than `CMD` changes no session register, no result and no error. -/
def Obligations.OperandWritesLeaveTheSession : Prop :=
  ∀ (s t : State) (off : Nat) (v : Word) (rest : List PortEvent),
    s.port = .write off 4 v :: rest → off ≠ 0 → step s = .next t →
      SameSession s t ∧ SameErrors s t ∧ t.result = s.result ∧ t.cmd = s.cmd

/-- Rule R106: `ROTL`, `HAMHEX`, `HAMBIN`, `NOP` and `CLRERR` neither write nor read the session: with any other session
in its place they do the same to everything else and leave that session as it is. -/
def Obligations.IsolatedCommandsIgnoreTheSession : Prop :=
  ∀ (i : Instr) (s t : State), isolated i = true → exec i s = .next t →
    SameSession s t ∧
      ∀ (S : StateWords) (n cnt : Word) (phase : Phase) (round : BitVec 3),
        exec i { s with S := S, n := n, cnt := cnt, phase := phase, round := round } =
          .next { t with S := S, n := n, cnt := cnt, phase := phase, round := round }

/-- Rules R105 and R106, the other way round: what a digest command leaves in the session depends on the session and on
`LEN`, `DIN0`, `DIN1` alone. -/
def Obligations.SessionDependsOnItsOperandsAlone : Prop :=
  ∀ (i : Instr) (s s' t : State), isolated i = false → SameSession s s' →
    s'.len = s.len → s'.din0 = s.din0 → s'.din1 = s.din1 → exec i s = .next t →
      ∃ t', exec i s' = .next t' ∧ SameSession t t'

/-! ### Invariants -/

/-- Every step keeps the operand buffers in canonical form (log entry 9). -/
def Obligations.StepKeepsMemoryCanonical : Prop :=
  ∀ s t : State, MemoryInv s → step s = .next t → MemoryInv t

/-- Every step keeps what each phase says of `S`, `N`, `CNT` and `ROUND` (rules R15, R16, R17, R68). -/
def Obligations.StepKeepsSessionOrder : Prop :=
  ∀ s t : State, SessionInv s → step s = .next t → SessionInv t

/-- Every step keeps the error record empty or in the form of one row of rule R89 (rules R26, R88, R89). -/
def Obligations.StepKeepsErrorRecord : Prop :=
  ∀ s t : State, ErrorInv s → step s = .next t → ErrorInv t

/-- The three invariants hold after reset. -/
def Obligations.InvariantsHoldAtReset : Prop :=
  MemoryInv State.reset ∧ SessionInv State.reset ∧ ErrorInv State.reset
end

