-- ==== Sys2Proof/Laws/Memory.lean ====
section
/-!
SUPPORT. The storage of the operand buffers: a read after a write, and that writes keep the canonical form
`Memory.wf`.
-/

namespace Sys2Proof.Machine

/-- The bits of a word built from its lanes. -/
theorem le32_getLsbD (b0 b1 b2 b3 : Byte) (j : Nat) :
    (le32 b0 b1 b2 b3).getLsbD j =
      if j < 8 then b0.getLsbD j else if j < 16 then b1.getLsbD (j - 8)
      else if j < 24 then b2.getLsbD (j - 16) else b3.getLsbD (j - 24) := by
  change ((((b3 ++ b2 : BitVec (8 + 8)) ++ b1 : BitVec (8 + 8 + 8)) ++ b0 : BitVec (8 + 8 + 8 + 8))).getLsbD j = _
  rw [BitVec.getLsbD_append, BitVec.getLsbD_append, BitVec.getLsbD_append, Nat.sub_sub, Nat.sub_sub]
  repeat' split
  all_goals first | omega | rfl

/-- The bits of a lane. -/
theorem lane_getLsbD (v : Word) (i j : Nat) : (lane v i).getLsbD j = (decide (j < 8) && v.getLsbD (8 * i + j)) := by
  simp [lane, BitVec.getLsbD_extractLsb']

/-- The lanes of a word built from its lanes. -/
theorem lane_le32 (b0 b1 b2 b3 : Byte) {i : Nat} (hi : i < 4) :
    lane (le32 b0 b1 b2 b3) i = if i = 0 then b0 else if i = 1 then b1 else if i = 2 then b2 else b3 := by
  apply BitVec.eq_of_getLsbD_eq
  intro j hj
  rw [lane_getLsbD, le32_getLsbD, decide_eq_true hj, Bool.true_and]
  interval_cases i <;> simp <;> repeat' split
  all_goals first | omega | rfl

/-- A word is built from its lanes. -/
theorem le32_lanes (v : Word) : le32 (lane v 0) (lane v 1) (lane v 2) (lane v 3) = v := by
  apply BitVec.eq_of_getLsbD_eq
  intro j hj
  simp only [le32_getLsbD, lane_getLsbD]
  repeat' split
  all_goals (rw [decide_eq_true (by omega), Bool.true_and]; congr 1; omega)

@[simp] theorem memRead_nil (a : Nat) : memRead [] a = Memory.unlisted := rfl

theorem memRead_cons (b : Nat) (w : Byte) (m : Memory) (a : Nat) :
    memRead ((b, w) :: m) a = if a = b then w else memRead m a := rfl

/-- An address below every listed one reads as unlisted. -/
theorem memRead_of_lt (m : Memory) (a : Nat) (h : ∀ c ∈ m, a < c.1) : memRead m a = Memory.unlisted := by
  induction m with
  | nil => rfl
  | cons c m ih =>
    have hc : a ≠ c.1 := (h c (List.mem_cons_self ..)).ne
    rw [show c = (c.1, c.2) from rfl, memRead_cons, if_neg hc]
    exact ih fun d hd => h d (List.mem_cons_of_mem _ hd)

/-- Reading after `memCons`, where the new address is not listed below. -/
theorem memRead_memCons (a : Nat) (v : Byte) (m : Memory) (x : Nat) (h : ∀ c ∈ m, a < c.1) :
    memRead (memCons a v m) x = if x = a then v else memRead m x := by
  unfold memCons
  split
  · rename_i hv
    split
    · subst_vars; exact memRead_of_lt m _ h
    · rfl
  · rfl

/-- A read after a write: the written byte at its address, and every other byte as before. -/
theorem memRead_memWrite (m : Memory) (hm : m.Pairwise (fun c d => c.1 < d.1)) (a : Nat) (v : Byte) (x : Nat) :
    memRead (memWrite m a v) x = if x = a then v else memRead m x := by
  induction m with
  | nil => exact memRead_memCons a v [] x (by simp)
  | cons c m ih =>
    obtain ⟨b, w⟩ := c
    rw [List.pairwise_cons] at hm
    unfold memWrite
    split
    · rename_i hlt
      refine memRead_memCons a v _ x ?_
      intro d hd
      rcases List.mem_cons.1 hd with rfl | hd
      · exact hlt
      · exact hlt.trans (hm.1 d hd)
    · split
      · rename_i heq
        subst heq
        rw [memRead_memCons a v m x hm.1, memRead_cons]
        split <;> rfl
      · rename_i hlt hne
        rw [memRead_cons, memRead_cons, ih hm.2]
        split
        · rename_i hx
          subst hx
          rw [if_neg (fun h => hne h.symm)]
        · rfl

/-- What can stand in the list after a write: an old entry, or the new one if it is not what an unlisted byte reads as. -/
theorem mem_memWrite {m : Memory} {a : Nat} {v : Byte} {c : Host.Cell} (h : c ∈ memWrite m a v) :
    c ∈ m ∨ (c = (a, v) ∧ v ≠ Memory.unlisted) := by
  have cons : ∀ m' : Memory, c ∈ memCons a v m' → c ∈ m' ∨ (c = (a, v) ∧ v ≠ Memory.unlisted) := by
    intro m' h'
    unfold memCons at h'
    split at h'
    · exact .inl h'
    · rename_i hv
      rcases List.mem_cons.1 h' with rfl | h'
      · exact .inr ⟨rfl, hv⟩
      · exact .inl h'
  induction m with
  | nil => exact cons [] h
  | cons d m ih =>
    obtain ⟨b, w⟩ := d
    unfold memWrite at h
    split at h
    · exact cons _ h
    · split at h
      · exact (cons m h).imp_left (List.mem_cons_of_mem _)
      · rcases List.mem_cons.1 h with rfl | h
        · exact .inl (List.mem_cons_self ..)
        · exact (ih h).imp_left (List.mem_cons_of_mem _)

/-- A write keeps the addresses strictly rising. -/
theorem memWrite_pairwise {m : Memory} (hm : m.Pairwise (fun c d => c.1 < d.1)) (a : Nat) (v : Byte) :
    (memWrite m a v).Pairwise (fun c d => c.1 < d.1) := by
  have cons : ∀ m' : Memory, m'.Pairwise (fun c d => c.1 < d.1) → (∀ c ∈ m', a < c.1) →
      (memCons a v m').Pairwise (fun c d => c.1 < d.1) := by
    intro m' hm' h
    unfold memCons
    split
    · exact hm'
    · exact List.pairwise_cons.2 ⟨h, hm'⟩
  induction m with
  | nil => exact cons [] .nil (by simp)
  | cons c m ih =>
    obtain ⟨b, w⟩ := c
    have hm' := List.pairwise_cons.1 hm
    unfold memWrite
    split
    · rename_i hlt
      refine cons _ hm fun d hd => ?_
      rcases List.mem_cons.1 hd with rfl | hd
      · exact hlt
      · exact hlt.trans (hm'.1 d hd)
    · split
      · rename_i heq
        subst heq
        exact cons m hm'.2 hm'.1
      · rename_i hlt hne
        refine List.pairwise_cons.2 ⟨fun d hd => ?_, ih hm'.2⟩
        rcases mem_memWrite hd with hd | ⟨rfl, -⟩
        · exact hm'.1 d hd
        · exact lt_of_le_of_ne (not_lt.1 hlt) (Ne.symm hne)

/-- A byte write inside the buffers keeps the canonical form. -/
theorem memWrite_wf {m : Memory} (hm : Memory.wf m) {a : Nat} (lo : 0x100 ≤ a) (hi : a < 0x180) (v : Byte) :
    Memory.wf (memWrite m a v) := by
  refine ⟨memWrite_pairwise hm.1 a v, fun c hc => ?_⟩
  rcases mem_memWrite hc with hc | ⟨rfl, hv⟩
  · exact hm.2 c hc
  · exact ⟨hv, lo, hi⟩

/-- A word write inside the buffers keeps the canonical form. -/
theorem memWriteWord_wf {m : Memory} (hm : Memory.wf m) {off : Nat} (lo : 0x100 ≤ off) (hi : off + 3 < 0x180) (v : Word) :
    Memory.wf (memWriteWord m off v) := by
  unfold memWriteWord
  refine memWrite_wf (memWrite_wf (memWrite_wf (memWrite_wf hm ?_ ?_ _) ?_ ?_ _) ?_ ?_ _) ?_ ?_ _ <;> omega

/-- A read after a word write: lane `x - off` of the written word inside it, and every other byte as before. -/
theorem memRead_memWriteWord {m : Memory} (hm : m.Pairwise (fun c d => c.1 < d.1)) (off : Nat) (v : Word) (x : Nat) :
    memRead (memWriteWord m off v) x = if off ≤ x ∧ x < off + 4 then lane v (x - off) else memRead m x := by
  unfold memWriteWord
  have h1 := memWrite_pairwise hm off (lane v 0)
  have h2 := memWrite_pairwise h1 (off + 1) (lane v 1)
  have h3 := memWrite_pairwise h2 (off + 2) (lane v 2)
  rw [memRead_memWrite _ h3, memRead_memWrite _ h2, memRead_memWrite _ h1, memRead_memWrite _ hm]
  split
  · subst x; rw [if_pos (by omega), show off + 3 - off = 3 by omega]
  split
  · subst x; rw [if_pos (by omega), show off + 2 - off = 2 by omega]
  split
  · subst x; rw [if_pos (by omega), show off + 1 - off = 1 by omega]
  split
  · subst x; rw [if_pos (by omega), show off - off = 0 by omega]
  rw [if_neg (by omega)]

end Sys2Proof.Machine
end

