-- ==== Sys2Proof/Laws/State.lean ====
section
/-!
SUPPORT. One lemma per field and named update of the state, so that no proof unfolds an update.
-/

namespace Sys2Proof.Machine

variable (s : State)

/-! ### `State.setSession` -/

@[simp] theorem State.setSession_S (W : StateWords) (c : Word) (p : Phase) (r : BitVec 3) : (s.setSession W c p r).S = W := rfl
@[simp] theorem State.setSession_n (W : StateWords) (c : Word) (p : Phase) (r : BitVec 3) : (s.setSession W c p r).n = s.n := rfl
@[simp] theorem State.setSession_cnt (W : StateWords) (c : Word) (p : Phase) (r : BitVec 3) : (s.setSession W c p r).cnt = c := rfl
@[simp] theorem State.setSession_phase (W : StateWords) (c : Word) (p : Phase) (r : BitVec 3) : (s.setSession W c p r).phase = p := rfl
@[simp] theorem State.setSession_round (W : StateWords) (c : Word) (p : Phase) (r : BitVec 3) : (s.setSession W c p r).round = r := rfl
@[simp] theorem State.setSession_len (W : StateWords) (c : Word) (p : Phase) (r : BitVec 3) : (s.setSession W c p r).len = s.len := rfl
@[simp] theorem State.setSession_din0 (W : StateWords) (c : Word) (p : Phase) (r : BitVec 3) : (s.setSession W c p r).din0 = s.din0 := rfl
@[simp] theorem State.setSession_din1 (W : StateWords) (c : Word) (p : Phase) (r : BitVec 3) : (s.setSession W c p r).din1 = s.din1 := rfl
@[simp] theorem State.setSession_opx (W : StateWords) (c : Word) (p : Phase) (r : BitVec 3) : (s.setSession W c p r).opx = s.opx := rfl
@[simp] theorem State.setSession_result (W : StateWords) (c : Word) (p : Phase) (r : BitVec 3) : (s.setSession W c p r).result = s.result := rfl
@[simp] theorem State.setSession_hlena (W : StateWords) (c : Word) (p : Phase) (r : BitVec 3) : (s.setSession W c p r).hlena = s.hlena := rfl
@[simp] theorem State.setSession_hlenb (W : StateWords) (c : Word) (p : Phase) (r : BitVec 3) : (s.setSession W c p r).hlenb = s.hlenb := rfl
@[simp] theorem State.setSession_hbuf (W : StateWords) (c : Word) (p : Phase) (r : BitVec 3) : (s.setSession W c p r).hbuf = s.hbuf := rfl
@[simp] theorem State.setSession_cmd (W : StateWords) (c : Word) (p : Phase) (r : BitVec 3) : (s.setSession W c p r).cmd = s.cmd := rfl
@[simp] theorem State.setSession_err (W : StateWords) (c : Word) (p : Phase) (r : BitVec 3) : (s.setSession W c p r).err = s.err := rfl
@[simp] theorem State.setSession_errovf (W : StateWords) (c : Word) (p : Phase) (r : BitVec 3) : (s.setSession W c p r).errovf = s.errovf := rfl
@[simp] theorem State.setSession_errcode (W : StateWords) (c : Word) (p : Phase) (r : BitVec 3) : (s.setSession W c p r).errcode = s.errcode := rfl
@[simp] theorem State.setSession_errcmd (W : StateWords) (c : Word) (p : Phase) (r : BitVec 3) : (s.setSession W c p r).errcmd = s.errcmd := rfl
@[simp] theorem State.setSession_errinfo (W : StateWords) (c : Word) (p : Phase) (r : BitVec 3) : (s.setSession W c p r).errinfo = s.errinfo := rfl
@[simp] theorem State.setSession_inReset (W : StateWords) (c : Word) (p : Phase) (r : BitVec 3) : (s.setSession W c p r).inReset = s.inReset := rfl
@[simp] theorem State.setSession_port (W : StateWords) (c : Word) (p : Phase) (r : BitVec 3) : (s.setSession W c p r).port = s.port := rfl
@[simp] theorem State.setSession_readData (W : StateWords) (c : Word) (p : Phase) (r : BitVec 3) : (s.setSession W c p r).readData = s.readData := rfl

/-! ### `State.setLength` -/

@[simp] theorem State.setLength_S (v : Word) : (s.setLength v).S = s.S := rfl
@[simp] theorem State.setLength_n (v : Word) : (s.setLength v).n = v := rfl
@[simp] theorem State.setLength_cnt (v : Word) : (s.setLength v).cnt = s.cnt := rfl
@[simp] theorem State.setLength_phase (v : Word) : (s.setLength v).phase = s.phase := rfl
@[simp] theorem State.setLength_round (v : Word) : (s.setLength v).round = s.round := rfl
@[simp] theorem State.setLength_len (v : Word) : (s.setLength v).len = s.len := rfl
@[simp] theorem State.setLength_din0 (v : Word) : (s.setLength v).din0 = s.din0 := rfl
@[simp] theorem State.setLength_din1 (v : Word) : (s.setLength v).din1 = s.din1 := rfl
@[simp] theorem State.setLength_opx (v : Word) : (s.setLength v).opx = s.opx := rfl
@[simp] theorem State.setLength_result (v : Word) : (s.setLength v).result = s.result := rfl
@[simp] theorem State.setLength_hlena (v : Word) : (s.setLength v).hlena = s.hlena := rfl
@[simp] theorem State.setLength_hlenb (v : Word) : (s.setLength v).hlenb = s.hlenb := rfl
@[simp] theorem State.setLength_hbuf (v : Word) : (s.setLength v).hbuf = s.hbuf := rfl
@[simp] theorem State.setLength_cmd (v : Word) : (s.setLength v).cmd = s.cmd := rfl
@[simp] theorem State.setLength_err (v : Word) : (s.setLength v).err = s.err := rfl
@[simp] theorem State.setLength_errovf (v : Word) : (s.setLength v).errovf = s.errovf := rfl
@[simp] theorem State.setLength_errcode (v : Word) : (s.setLength v).errcode = s.errcode := rfl
@[simp] theorem State.setLength_errcmd (v : Word) : (s.setLength v).errcmd = s.errcmd := rfl
@[simp] theorem State.setLength_errinfo (v : Word) : (s.setLength v).errinfo = s.errinfo := rfl
@[simp] theorem State.setLength_inReset (v : Word) : (s.setLength v).inReset = s.inReset := rfl
@[simp] theorem State.setLength_port (v : Word) : (s.setLength v).port = s.port := rfl
@[simp] theorem State.setLength_readData (v : Word) : (s.setLength v).readData = s.readData := rfl

/-! ### `State.setResult` -/

@[simp] theorem State.setResult_S (v : Word) : (s.setResult v).S = s.S := rfl
@[simp] theorem State.setResult_n (v : Word) : (s.setResult v).n = s.n := rfl
@[simp] theorem State.setResult_cnt (v : Word) : (s.setResult v).cnt = s.cnt := rfl
@[simp] theorem State.setResult_phase (v : Word) : (s.setResult v).phase = s.phase := rfl
@[simp] theorem State.setResult_round (v : Word) : (s.setResult v).round = s.round := rfl
@[simp] theorem State.setResult_len (v : Word) : (s.setResult v).len = s.len := rfl
@[simp] theorem State.setResult_din0 (v : Word) : (s.setResult v).din0 = s.din0 := rfl
@[simp] theorem State.setResult_din1 (v : Word) : (s.setResult v).din1 = s.din1 := rfl
@[simp] theorem State.setResult_opx (v : Word) : (s.setResult v).opx = s.opx := rfl
@[simp] theorem State.setResult_result (v : Word) : (s.setResult v).result = v := rfl
@[simp] theorem State.setResult_hlena (v : Word) : (s.setResult v).hlena = s.hlena := rfl
@[simp] theorem State.setResult_hlenb (v : Word) : (s.setResult v).hlenb = s.hlenb := rfl
@[simp] theorem State.setResult_hbuf (v : Word) : (s.setResult v).hbuf = s.hbuf := rfl
@[simp] theorem State.setResult_cmd (v : Word) : (s.setResult v).cmd = s.cmd := rfl
@[simp] theorem State.setResult_err (v : Word) : (s.setResult v).err = s.err := rfl
@[simp] theorem State.setResult_errovf (v : Word) : (s.setResult v).errovf = s.errovf := rfl
@[simp] theorem State.setResult_errcode (v : Word) : (s.setResult v).errcode = s.errcode := rfl
@[simp] theorem State.setResult_errcmd (v : Word) : (s.setResult v).errcmd = s.errcmd := rfl
@[simp] theorem State.setResult_errinfo (v : Word) : (s.setResult v).errinfo = s.errinfo := rfl
@[simp] theorem State.setResult_inReset (v : Word) : (s.setResult v).inReset = s.inReset := rfl
@[simp] theorem State.setResult_port (v : Word) : (s.setResult v).port = s.port := rfl
@[simp] theorem State.setResult_readData (v : Word) : (s.setResult v).readData = s.readData := rfl

/-! ### `State.setCommand` -/

@[simp] theorem State.setCommand_S (c : Word) : (s.setCommand c).S = s.S := rfl
@[simp] theorem State.setCommand_n (c : Word) : (s.setCommand c).n = s.n := rfl
@[simp] theorem State.setCommand_cnt (c : Word) : (s.setCommand c).cnt = s.cnt := rfl
@[simp] theorem State.setCommand_phase (c : Word) : (s.setCommand c).phase = s.phase := rfl
@[simp] theorem State.setCommand_round (c : Word) : (s.setCommand c).round = s.round := rfl
@[simp] theorem State.setCommand_len (c : Word) : (s.setCommand c).len = s.len := rfl
@[simp] theorem State.setCommand_din0 (c : Word) : (s.setCommand c).din0 = s.din0 := rfl
@[simp] theorem State.setCommand_din1 (c : Word) : (s.setCommand c).din1 = s.din1 := rfl
@[simp] theorem State.setCommand_opx (c : Word) : (s.setCommand c).opx = s.opx := rfl
@[simp] theorem State.setCommand_result (c : Word) : (s.setCommand c).result = s.result := rfl
@[simp] theorem State.setCommand_hlena (c : Word) : (s.setCommand c).hlena = s.hlena := rfl
@[simp] theorem State.setCommand_hlenb (c : Word) : (s.setCommand c).hlenb = s.hlenb := rfl
@[simp] theorem State.setCommand_hbuf (c : Word) : (s.setCommand c).hbuf = s.hbuf := rfl
@[simp] theorem State.setCommand_cmd (c : Word) : (s.setCommand c).cmd = c := rfl
@[simp] theorem State.setCommand_err (c : Word) : (s.setCommand c).err = s.err := rfl
@[simp] theorem State.setCommand_errovf (c : Word) : (s.setCommand c).errovf = s.errovf := rfl
@[simp] theorem State.setCommand_errcode (c : Word) : (s.setCommand c).errcode = s.errcode := rfl
@[simp] theorem State.setCommand_errcmd (c : Word) : (s.setCommand c).errcmd = s.errcmd := rfl
@[simp] theorem State.setCommand_errinfo (c : Word) : (s.setCommand c).errinfo = s.errinfo := rfl
@[simp] theorem State.setCommand_inReset (c : Word) : (s.setCommand c).inReset = s.inReset := rfl
@[simp] theorem State.setCommand_port (c : Word) : (s.setCommand c).port = s.port := rfl
@[simp] theorem State.setCommand_readData (c : Word) : (s.setCommand c).readData = s.readData := rfl

/-! ### `State.setPort` -/

@[simp] theorem State.setPort_S (es : List PortEvent) : (s.setPort es).S = s.S := rfl
@[simp] theorem State.setPort_n (es : List PortEvent) : (s.setPort es).n = s.n := rfl
@[simp] theorem State.setPort_cnt (es : List PortEvent) : (s.setPort es).cnt = s.cnt := rfl
@[simp] theorem State.setPort_phase (es : List PortEvent) : (s.setPort es).phase = s.phase := rfl
@[simp] theorem State.setPort_round (es : List PortEvent) : (s.setPort es).round = s.round := rfl
@[simp] theorem State.setPort_len (es : List PortEvent) : (s.setPort es).len = s.len := rfl
@[simp] theorem State.setPort_din0 (es : List PortEvent) : (s.setPort es).din0 = s.din0 := rfl
@[simp] theorem State.setPort_din1 (es : List PortEvent) : (s.setPort es).din1 = s.din1 := rfl
@[simp] theorem State.setPort_opx (es : List PortEvent) : (s.setPort es).opx = s.opx := rfl
@[simp] theorem State.setPort_result (es : List PortEvent) : (s.setPort es).result = s.result := rfl
@[simp] theorem State.setPort_hlena (es : List PortEvent) : (s.setPort es).hlena = s.hlena := rfl
@[simp] theorem State.setPort_hlenb (es : List PortEvent) : (s.setPort es).hlenb = s.hlenb := rfl
@[simp] theorem State.setPort_hbuf (es : List PortEvent) : (s.setPort es).hbuf = s.hbuf := rfl
@[simp] theorem State.setPort_cmd (es : List PortEvent) : (s.setPort es).cmd = s.cmd := rfl
@[simp] theorem State.setPort_err (es : List PortEvent) : (s.setPort es).err = s.err := rfl
@[simp] theorem State.setPort_errovf (es : List PortEvent) : (s.setPort es).errovf = s.errovf := rfl
@[simp] theorem State.setPort_errcode (es : List PortEvent) : (s.setPort es).errcode = s.errcode := rfl
@[simp] theorem State.setPort_errcmd (es : List PortEvent) : (s.setPort es).errcmd = s.errcmd := rfl
@[simp] theorem State.setPort_errinfo (es : List PortEvent) : (s.setPort es).errinfo = s.errinfo := rfl
@[simp] theorem State.setPort_inReset (es : List PortEvent) : (s.setPort es).inReset = s.inReset := rfl
@[simp] theorem State.setPort_port (es : List PortEvent) : (s.setPort es).port = es := rfl
@[simp] theorem State.setPort_readData (es : List PortEvent) : (s.setPort es).readData = s.readData := rfl

/-! ### `State.pushRead` -/

@[simp] theorem State.pushRead_S (v : Word) : (s.pushRead v).S = s.S := rfl
@[simp] theorem State.pushRead_n (v : Word) : (s.pushRead v).n = s.n := rfl
@[simp] theorem State.pushRead_cnt (v : Word) : (s.pushRead v).cnt = s.cnt := rfl
@[simp] theorem State.pushRead_phase (v : Word) : (s.pushRead v).phase = s.phase := rfl
@[simp] theorem State.pushRead_round (v : Word) : (s.pushRead v).round = s.round := rfl
@[simp] theorem State.pushRead_len (v : Word) : (s.pushRead v).len = s.len := rfl
@[simp] theorem State.pushRead_din0 (v : Word) : (s.pushRead v).din0 = s.din0 := rfl
@[simp] theorem State.pushRead_din1 (v : Word) : (s.pushRead v).din1 = s.din1 := rfl
@[simp] theorem State.pushRead_opx (v : Word) : (s.pushRead v).opx = s.opx := rfl
@[simp] theorem State.pushRead_result (v : Word) : (s.pushRead v).result = s.result := rfl
@[simp] theorem State.pushRead_hlena (v : Word) : (s.pushRead v).hlena = s.hlena := rfl
@[simp] theorem State.pushRead_hlenb (v : Word) : (s.pushRead v).hlenb = s.hlenb := rfl
@[simp] theorem State.pushRead_hbuf (v : Word) : (s.pushRead v).hbuf = s.hbuf := rfl
@[simp] theorem State.pushRead_cmd (v : Word) : (s.pushRead v).cmd = s.cmd := rfl
@[simp] theorem State.pushRead_err (v : Word) : (s.pushRead v).err = s.err := rfl
@[simp] theorem State.pushRead_errovf (v : Word) : (s.pushRead v).errovf = s.errovf := rfl
@[simp] theorem State.pushRead_errcode (v : Word) : (s.pushRead v).errcode = s.errcode := rfl
@[simp] theorem State.pushRead_errcmd (v : Word) : (s.pushRead v).errcmd = s.errcmd := rfl
@[simp] theorem State.pushRead_errinfo (v : Word) : (s.pushRead v).errinfo = s.errinfo := rfl
@[simp] theorem State.pushRead_inReset (v : Word) : (s.pushRead v).inReset = s.inReset := rfl
@[simp] theorem State.pushRead_port (v : Word) : (s.pushRead v).port = s.port := rfl
@[simp] theorem State.pushRead_readData (v : Word) : (s.pushRead v).readData = v :: s.readData := rfl

/-! ### `State.setResetLine` -/

@[simp] theorem State.setResetLine_S (b : Bool) : (s.setResetLine b).S = s.S := rfl
@[simp] theorem State.setResetLine_n (b : Bool) : (s.setResetLine b).n = s.n := rfl
@[simp] theorem State.setResetLine_cnt (b : Bool) : (s.setResetLine b).cnt = s.cnt := rfl
@[simp] theorem State.setResetLine_phase (b : Bool) : (s.setResetLine b).phase = s.phase := rfl
@[simp] theorem State.setResetLine_round (b : Bool) : (s.setResetLine b).round = s.round := rfl
@[simp] theorem State.setResetLine_len (b : Bool) : (s.setResetLine b).len = s.len := rfl
@[simp] theorem State.setResetLine_din0 (b : Bool) : (s.setResetLine b).din0 = s.din0 := rfl
@[simp] theorem State.setResetLine_din1 (b : Bool) : (s.setResetLine b).din1 = s.din1 := rfl
@[simp] theorem State.setResetLine_opx (b : Bool) : (s.setResetLine b).opx = s.opx := rfl
@[simp] theorem State.setResetLine_result (b : Bool) : (s.setResetLine b).result = s.result := rfl
@[simp] theorem State.setResetLine_hlena (b : Bool) : (s.setResetLine b).hlena = s.hlena := rfl
@[simp] theorem State.setResetLine_hlenb (b : Bool) : (s.setResetLine b).hlenb = s.hlenb := rfl
@[simp] theorem State.setResetLine_hbuf (b : Bool) : (s.setResetLine b).hbuf = s.hbuf := rfl
@[simp] theorem State.setResetLine_cmd (b : Bool) : (s.setResetLine b).cmd = s.cmd := rfl
@[simp] theorem State.setResetLine_err (b : Bool) : (s.setResetLine b).err = s.err := rfl
@[simp] theorem State.setResetLine_errovf (b : Bool) : (s.setResetLine b).errovf = s.errovf := rfl
@[simp] theorem State.setResetLine_errcode (b : Bool) : (s.setResetLine b).errcode = s.errcode := rfl
@[simp] theorem State.setResetLine_errcmd (b : Bool) : (s.setResetLine b).errcmd = s.errcmd := rfl
@[simp] theorem State.setResetLine_errinfo (b : Bool) : (s.setResetLine b).errinfo = s.errinfo := rfl
@[simp] theorem State.setResetLine_inReset (b : Bool) : (s.setResetLine b).inReset = b := rfl
@[simp] theorem State.setResetLine_port (b : Bool) : (s.setResetLine b).port = s.port := rfl
@[simp] theorem State.setResetLine_readData (b : Bool) : (s.setResetLine b).readData = s.readData := rfl

/-! ### `State.toReset` -/

@[simp] theorem State.toReset_S : (s.toReset).S = State.reset.S := rfl
@[simp] theorem State.toReset_n : (s.toReset).n = State.reset.n := rfl
@[simp] theorem State.toReset_cnt : (s.toReset).cnt = State.reset.cnt := rfl
@[simp] theorem State.toReset_phase : (s.toReset).phase = State.reset.phase := rfl
@[simp] theorem State.toReset_round : (s.toReset).round = State.reset.round := rfl
@[simp] theorem State.toReset_len : (s.toReset).len = State.reset.len := rfl
@[simp] theorem State.toReset_din0 : (s.toReset).din0 = State.reset.din0 := rfl
@[simp] theorem State.toReset_din1 : (s.toReset).din1 = State.reset.din1 := rfl
@[simp] theorem State.toReset_opx : (s.toReset).opx = State.reset.opx := rfl
@[simp] theorem State.toReset_result : (s.toReset).result = State.reset.result := rfl
@[simp] theorem State.toReset_hlena : (s.toReset).hlena = State.reset.hlena := rfl
@[simp] theorem State.toReset_hlenb : (s.toReset).hlenb = State.reset.hlenb := rfl
@[simp] theorem State.toReset_hbuf : (s.toReset).hbuf = State.reset.hbuf := rfl
@[simp] theorem State.toReset_cmd : (s.toReset).cmd = State.reset.cmd := rfl
@[simp] theorem State.toReset_err : (s.toReset).err = State.reset.err := rfl
@[simp] theorem State.toReset_errovf : (s.toReset).errovf = State.reset.errovf := rfl
@[simp] theorem State.toReset_errcode : (s.toReset).errcode = State.reset.errcode := rfl
@[simp] theorem State.toReset_errcmd : (s.toReset).errcmd = State.reset.errcmd := rfl
@[simp] theorem State.toReset_errinfo : (s.toReset).errinfo = State.reset.errinfo := rfl
@[simp] theorem State.toReset_inReset : (s.toReset).inReset = State.reset.inReset := rfl
@[simp] theorem State.toReset_port : (s.toReset).port = s.port := rfl
@[simp] theorem State.toReset_readData : (s.toReset).readData = s.readData := rfl

/-! ### `clearErrors` -/

@[simp] theorem clearErrors_S : (clearErrors s).S = s.S := rfl
@[simp] theorem clearErrors_n : (clearErrors s).n = s.n := rfl
@[simp] theorem clearErrors_cnt : (clearErrors s).cnt = s.cnt := rfl
@[simp] theorem clearErrors_phase : (clearErrors s).phase = s.phase := rfl
@[simp] theorem clearErrors_round : (clearErrors s).round = s.round := rfl
@[simp] theorem clearErrors_len : (clearErrors s).len = s.len := rfl
@[simp] theorem clearErrors_din0 : (clearErrors s).din0 = s.din0 := rfl
@[simp] theorem clearErrors_din1 : (clearErrors s).din1 = s.din1 := rfl
@[simp] theorem clearErrors_opx : (clearErrors s).opx = s.opx := rfl
@[simp] theorem clearErrors_result : (clearErrors s).result = s.result := rfl
@[simp] theorem clearErrors_hlena : (clearErrors s).hlena = s.hlena := rfl
@[simp] theorem clearErrors_hlenb : (clearErrors s).hlenb = s.hlenb := rfl
@[simp] theorem clearErrors_hbuf : (clearErrors s).hbuf = s.hbuf := rfl
@[simp] theorem clearErrors_cmd : (clearErrors s).cmd = s.cmd := rfl
@[simp] theorem clearErrors_err : (clearErrors s).err = false := rfl
@[simp] theorem clearErrors_errovf : (clearErrors s).errovf = false := rfl
@[simp] theorem clearErrors_errcode : (clearErrors s).errcode = .noError := rfl
@[simp] theorem clearErrors_errcmd : (clearErrors s).errcmd = 0 := rfl
@[simp] theorem clearErrors_errinfo : (clearErrors s).errinfo = 0 := rfl
@[simp] theorem clearErrors_inReset : (clearErrors s).inReset = s.inReset := rfl
@[simp] theorem clearErrors_port : (clearErrors s).port = s.port := rfl
@[simp] theorem clearErrors_readData : (clearErrors s).readData = s.readData := rfl

/-! ### `recordError` -/

variable (e : ErrCode) (c info : Word)

@[simp] theorem recordError_S : (recordError e c info s).S = s.S := by unfold recordError; split <;> rfl
@[simp] theorem recordError_n : (recordError e c info s).n = s.n := by unfold recordError; split <;> rfl
@[simp] theorem recordError_cnt : (recordError e c info s).cnt = s.cnt := by unfold recordError; split <;> rfl
@[simp] theorem recordError_phase : (recordError e c info s).phase = s.phase := by unfold recordError; split <;> rfl
@[simp] theorem recordError_round : (recordError e c info s).round = s.round := by unfold recordError; split <;> rfl
@[simp] theorem recordError_len : (recordError e c info s).len = s.len := by unfold recordError; split <;> rfl
@[simp] theorem recordError_din0 : (recordError e c info s).din0 = s.din0 := by unfold recordError; split <;> rfl
@[simp] theorem recordError_din1 : (recordError e c info s).din1 = s.din1 := by unfold recordError; split <;> rfl
@[simp] theorem recordError_opx : (recordError e c info s).opx = s.opx := by unfold recordError; split <;> rfl
@[simp] theorem recordError_result : (recordError e c info s).result = s.result := by unfold recordError; split <;> rfl
@[simp] theorem recordError_hlena : (recordError e c info s).hlena = s.hlena := by unfold recordError; split <;> rfl
@[simp] theorem recordError_hlenb : (recordError e c info s).hlenb = s.hlenb := by unfold recordError; split <;> rfl
@[simp] theorem recordError_hbuf : (recordError e c info s).hbuf = s.hbuf := by unfold recordError; split <;> rfl
@[simp] theorem recordError_cmd : (recordError e c info s).cmd = s.cmd := by unfold recordError; split <;> rfl
@[simp] theorem recordError_err : (recordError e c info s).err = true := by unfold recordError; split <;> simp_all
@[simp] theorem recordError_errovf : (recordError e c info s).errovf = (s.err || s.errovf) := by unfold recordError; split <;> simp_all
@[simp] theorem recordError_errcode : (recordError e c info s).errcode = if s.err then s.errcode else e := by unfold recordError; split <;> rfl
@[simp] theorem recordError_errcmd : (recordError e c info s).errcmd = if s.err then s.errcmd else c := by unfold recordError; split <;> rfl
@[simp] theorem recordError_errinfo : (recordError e c info s).errinfo = if s.err then s.errinfo else info := by unfold recordError; split <;> rfl
@[simp] theorem recordError_inReset : (recordError e c info s).inReset = s.inReset := by unfold recordError; split <;> rfl
@[simp] theorem recordError_port : (recordError e c info s).port = s.port := by unfold recordError; split <;> rfl
@[simp] theorem recordError_readData : (recordError e c info s).readData = s.readData := by unfold recordError; split <;> rfl

end Sys2Proof.Machine
end

