-- ==== Sys2Proof/Laws/Commands.lean ====
section
/-!
SUPPORT. What a command can do, said once: every meaning is a list of checks and an effect, and `exec` either records
the first failing check's error or has the effect. With the small facts about the shared operations.
-/

namespace Sys2Proof.Machine

/-! ### Errors -/

@[simp] theorem raiseError_eq (e : ErrCode) (info : Word) (s : State) :
    raiseError e info s = .next (recordError e s.cmd info s) := rfl

@[simp] theorem afterChecks_none (s t : State) : afterChecks none s t = .next t := rfl

@[simp] theorem afterChecks_some (e : ErrCode) (info : Word) (s t : State) :
    afterChecks (some (e, info)) s t = .next (recordError e s.cmd info s) := rfl

/-- The two forms of `recordError`. -/
theorem recordError_of_err {s : State} (h : s.err = true) (e : ErrCode) (c info : Word) :
    recordError e c info s = { s with errovf := true } := by simp [recordError, h]

theorem recordError_of_not_err {s : State} (h : s.err = false) (e : ErrCode) (c info : Word) :
    recordError e c info s = { s with err := true, errcode := e, errcmd := c, errinfo := info } := by
  simp [recordError, h]

/-! ### The normal form of a command -/

/-- The checks of a command, in order (60_exceptions.md rule R91). -/
def commandCheck (i : Instr) (s : State) : Option (ErrCode × Word) :=
  match i with
  | .nop | .init | .rotl _ | .clrerr => none
  | .absorb => absorbCheck s
  | .tail k => tailCheck k s
  | .fround | .final => finalizeCheck s
  | .hamhex => hamhexCheck s
  | .hambin => hambinCheck s

/-- The effect of a command whose checks pass. -/
def commandEffect (i : Instr) (s : State) : State :=
  match i with
  | .nop => s
  | .init => (s.setLength s.len).setSession (initWords s.len) 0 .absorb 0
  | .absorb => s.setSession (absorbWords s.S s.din0 s.din1) (s.cnt + 8) s.phase s.round
  | .tail k =>
    s.setSession
      (tailWords s.S (blockLow (tailBlock k.toNat s.din0 s.din1)) (blockHigh (tailBlock k.toNat s.din0 s.din1)) s.n)
      (s.cnt + k.setWidth 32) .tailed s.round
  | .fround =>
    s.setSession (roundWords s.round.toNat s.S) s.cnt (if s.round + 1 = 6 then .done else .finalizing) (s.round + 1)
  | .final => s.setSession (remainingRounds s.round.toNat s.S) s.cnt .done 6
  | .rotl a => s.setResult (rotl32 s.opx (a.extractLsb' 0 5).toNat)
  | .hamhex => s.setResult (BitVec.ofNat 32 (hammingDistance (decodeHex (operandA s)) (decodeHex (operandB s))))
  | .hambin => s.setResult (BitVec.ofNat 32 (hammingDistance (operandA s) (operandB s)))
  | .clrerr => clearErrors s

/-- Every command is its checks, then its effect. -/
theorem exec_eq_afterChecks (i : Instr) (s : State) :
    exec i s = afterChecks (commandCheck i s) s (commandEffect i s) := by
  cases i <;> rfl

/-- What a command can do: record one error, or have its effect. -/
theorem exec_next_cases {i : Instr} {s t : State} (h : exec i s = .next t) :
    (commandCheck i s = none ∧ t = commandEffect i s) ∨
      ∃ e info, commandCheck i s = some (e, info) ∧ t = recordError e s.cmd info s := by
  rw [exec_eq_afterChecks] at h
  match hc : commandCheck i s with
  | none => rw [hc, afterChecks_none] at h; injection h with h; exact .inl ⟨rfl, h.symm⟩
  | some (e, info) => rw [hc, afterChecks_some] at h; injection h with h; exact .inr ⟨e, info, rfl, h.symm⟩

/-- A command whose checks pass has its effect. -/
theorem exec_of_check_none {i : Instr} {s : State} (h : commandCheck i s = none) : exec i s = .next (commandEffect i s) := by
  rw [exec_eq_afterChecks, h, afterChecks_none]

/-- A command with a failing check records its error. -/
theorem exec_of_check_some {i : Instr} {s : State} {e : ErrCode} {info : Word} (h : commandCheck i s = some (e, info)) :
    exec i s = .next (recordError e s.cmd info s) := by
  rw [exec_eq_afterChecks, h, afterChecks_some]

/-! ### The rotate -/

/-- The primitive is the library's rotate. -/
theorem rotl32_eq_rotateLeft (x : Word) (r : Nat) : rotl32 x r = x.rotateLeft r := by
  unfold rotl32
  split
  · rename_i h
    apply BitVec.eq_of_getLsbD_eq
    intro j hj
    rw [BitVec.getLsbD_rotateLeft, h]
    simp [hj]
  · apply BitVec.eq_of_getLsbD_eq
    intro j hj
    have hr := Nat.mod_lt r (show 0 < 32 by decide)
    rw [BitVec.getLsbD_or, BitVec.getLsbD_shiftLeft, BitVec.getLsbD_ushiftRight, BitVec.getLsbD_rotateLeft]
    by_cases hlt : j < r % 32
    · simp [hj, hlt]
    · simp only [hj, hlt, decide_true, decide_false, Bool.not_false, Bool.true_and, Bool.and_true, cond_false]
      rw [BitVec.getLsbD_of_ge x (32 - r % 32 + j) (by omega), Bool.or_false]

/-! ### The operands of the comparator -/

@[simp] theorem bufferBytes_length (m : Memory) (base len : Nat) : (bufferBytes m base len).length = len := by
  simp [bufferBytes]

theorem bufferBytes_getElem (m : Memory) (base len j : Nat) (h : j < (bufferBytes m base len).length) :
    (bufferBytes m base len)[j] = memRead m (base + j) := by
  simp [bufferBytes]

end Sys2Proof.Machine
end

