-- ==== Sys2Proof/Laws/Operands.lean ====
section
/-!
SUPPORT. The operand forms, each said once: the lanes of the tail block, the details of comparator errors, where a hex
string is bad, what it decodes to, and the Hamming distance as a sum.
-/

namespace Sys2Proof.Machine

open Sys2Proof.Safety

/-! ### The tail block -/

/-- Two words with the same lanes are equal. -/
theorem word_ext {a b : Word} (h : ∀ i < 4, a.extractLsb' (8 * i) 8 = b.extractLsb' (8 * i) 8) : a = b := by
  rw [← le32_lanes a, ← le32_lanes b]
  unfold lane
  rw [h 0 (by decide), h 1 (by decide), h 2 (by decide), h 3 (by decide)]

/-- The bits of the tail block: those of the two words below bit `8k`, and 0 from there on. -/
theorem tailBlock_getLsbD (k : Nat) (d0 d1 : Word) {j : Nat} (hj : j < 64) :
    (tailBlock k d0 d1).getLsbD j = (decide (j < 8 * k) && if j < 32 then d0.getLsbD j else d1.getLsbD (j - 32)) := by
  unfold tailBlock
  change ((d1 ++ d0 : BitVec (32 + 32)) &&& BitVec.ofNat 64 (2 ^ (8 * k) - 1)).getLsbD j = _
  rw [BitVec.getLsbD_and, BitVec.getLsbD_append, BitVec.getLsbD_ofNat, Nat.testBit_two_pow_sub_one, Bool.and_comm]
  simp [hj]

/-- The lanes of `w1` of the tail block. -/
theorem blockLow_tailBlock (k : Nat) (d0 d1 : Word) {i : Nat} (hi : i < 4) :
    (blockLow (tailBlock k d0 d1)).extractLsb' (8 * i) 8 = if i < k then d0.extractLsb' (8 * i) 8 else 0 := by
  apply BitVec.eq_of_getLsbD_eq
  intro j hj
  rw [BitVec.getLsbD_extractLsb', blockLow, BitVec.getLsbD_extractLsb', Nat.zero_add, tailBlock_getLsbD _ _ _ (by omega)]
  by_cases h : i < k
  · simp [h, hj, show 8 * i + j < 32 by omega, show 8 * i + j < 8 * k by omega]
  · simp [h, show ¬ 8 * i + j < 8 * k by omega]

/-- The lanes of `w2` of the tail block. -/
theorem blockHigh_tailBlock (k : Nat) (d0 d1 : Word) {i : Nat} (hi : i < 4) :
    (blockHigh (tailBlock k d0 d1)).extractLsb' (8 * i) 8 = if i + 4 < k then d1.extractLsb' (8 * i) 8 else 0 := by
  apply BitVec.eq_of_getLsbD_eq
  intro j hj
  rw [BitVec.getLsbD_extractLsb', blockHigh, BitVec.getLsbD_extractLsb', tailBlock_getLsbD _ _ _ (by omega)]
  by_cases h : i + 4 < k
  · simp [h, hj, show 8 * i + j < 32 by omega, show 32 + (8 * i + j) < 8 * k by omega]
  · simp [h, show ¬ 32 + (8 * i + j) < 8 * k by omega]

/-! ### The details of comparator errors -/

theorem operandInfo_eq (op : BitVec 1) {v : Nat} (hv : v < 256) :
    operandInfo op v = BitVec.ofNat 32 (256 * op.toNat + v) := by
  apply BitVec.eq_of_toNat_eq
  unfold operandInfo
  rw [BitVec.toNat_setWidth, BitVec.toNat_append, BitVec.toNat_ofNat, BitVec.toNat_ofNat, Nat.shiftLeft_eq, Nat.mul_comm,
    ← Nat.two_pow_add_eq_or_of_lt (Nat.mod_lt _ (by decide)), Nat.mod_eq_of_lt (a := v) (by omega)]

theorem lengthInfo_eq (a b : BitVec 7) :
    ((b.setWidth 8 ++ a.setWidth 8).setWidth 32 : Word) = BitVec.ofNat 32 (256 * b.toNat + a.toNat) := by
  apply BitVec.eq_of_toNat_eq
  have h1 := a.isLt
  have h2 := b.isLt
  rw [BitVec.toNat_setWidth, BitVec.toNat_append, BitVec.toNat_ofNat, Nat.shiftLeft_eq, Nat.mul_comm,
    ← Nat.two_pow_add_eq_or_of_lt (by rw [BitVec.toNat_setWidth]; omega), BitVec.toNat_setWidth, BitVec.toNat_setWidth,
    Nat.mod_eq_of_lt (a := a.toNat) (by omega), Nat.mod_eq_of_lt (a := b.toNat) (by omega)]

theorem rangeCheck_eq_none {s : State} : rangeCheck s = none ↔ s.hlena.toNat ≤ 64 ∧ s.hlenb.toNat ≤ 64 := by
  unfold rangeCheck Config.hbufBytes
  split_ifs <;> simp <;> omega

/-! ### Hex strings -/

/-- Where an operand is bad. -/
theorem badHexPosition_eq_some {m : Memory} {base L p : Nat} :
    badHexPosition (bufferBytes m base L) = some p ↔ BadAt m base L p := by
  unfold badHexPosition BadAt
  split
  · rename_i q hq
    rw [List.findIdx?_eq_some_iff_getElem] at hq
    obtain ⟨hl, hq, hlt⟩ := hq
    simp only [bufferBytes_getElem, bufferBytes_length, Option.isNone_iff_eq_none] at hl hq hlt
    constructor
    · intro h; cases h
      exact .inl ⟨hl, hq, fun j hj => hlt j hj⟩
    · rintro (⟨-, hn, hj⟩ | ⟨rfl, -, hj⟩)
      · rcases Nat.lt_trichotomy p q with h | h | h
        · exact absurd hn (hlt p h)
        · rw [h]
        · exact absurd hq (hj q h)
      · exact absurd hq (hj q hl)
  · rename_i hn
    have hn' : ∀ j < L, hexval (memRead m (base + j)) ≠ none := by
      intro j hj h
      have := List.findIdx?_eq_none_iff.1 hn (memRead m (base + j)) (List.mem_map.2 ⟨j, List.mem_range.2 hj, rfl⟩)
      simp [h] at this
    rw [bufferBytes_length]
    constructor
    · intro h
      split at h
      · cases h; exact .inr ⟨rfl, ‹_›, hn'⟩
      · cases h
    · rintro (⟨hp, h, -⟩ | ⟨rfl, h, -⟩)
      · exact absurd h (hn' _ hp)
      · rw [if_pos h]

/-- An operand is bad nowhere exactly when it is valid. -/
theorem badHexPosition_eq_none {m : Memory} {base L : Nat} :
    badHexPosition (bufferBytes m base L) = none ↔ ValidHex m base L := by
  constructor
  · intro h
    have hb : ∀ p, ¬ BadAt m base L p := fun p hp => by rw [← badHexPosition_eq_some, h] at hp; cases hp
    have hv : ∀ j < L, hexval (memRead m (base + j)) ≠ none := by
      intro j
      induction j using Nat.strong_induction_on with
      | _ j ih => exact fun hj hn => hb j (.inl ⟨hj, hn, fun q hq => ih q hq (hq.trans hj)⟩)
    refine ⟨?_, hv⟩
    by_contra ho
    exact hb L (.inr ⟨rfl, by omega, hv⟩)
  · rintro ⟨he, hv⟩
    match h : badHexPosition (bufferBytes m base L) with
    | none => rfl
    | some p =>
      rcases badHexPosition_eq_some.1 h with ⟨hp, hn, -⟩ | ⟨-, ho, -⟩
      · exact absurd hn (hv p hp)
      · omega

/-- What an operand of even length decodes to. -/
theorem decodeHex_bufferBytes (m : Memory) (base k : Nat) :
    decodeHex (bufferBytes m base (2 * k)) = (List.range k).map (decodedByte m base) := by
  induction k generalizing base with
  | zero => rfl
  | succ k ih =>
    have : bufferBytes m base (2 * (k + 1)) = memRead m base :: memRead m (base + 1) :: bufferBytes m (base + 2) (2 * k) := by
      unfold bufferBytes
      rw [show 2 * (k + 1) = 2 * k + 1 + 1 by omega, List.range_succ_eq_map, List.range_succ_eq_map]
      simp [Function.comp_def]
      intros; congr 1; omega
    rw [this, decodeHex, ih, List.range_succ_eq_map, List.map_cons, List.map_map]
    congr 1
    apply List.map_congr_left
    intro i _
    simp only [decodedByte, Function.comp_def]
    rw [show base + 2 + 2 * i = base + 2 * i.succ by omega, show base + 2 + (2 * i + 1) = base + (2 * i.succ + 1) by omega]

/-- The Hamming distance as a sum. -/
theorem hammingDistance_range (f g : Nat → Byte) (k : Nat) :
    hammingDistance ((List.range k).map f) ((List.range k).map g) = ∑ i ∈ Finset.range k, popcount (f i ^^^ g i) := by
  unfold hammingDistance
  induction k with
  | zero => rfl
  | succ k ih =>
    rw [List.range_succ, List.map_append, List.map_append, List.zipWith_append (by simp), List.sum_append, ih,
      Finset.sum_range_succ]
    simp

end Sys2Proof.Machine
end

