-- ==== Sys2Proof/Laws/Checks.lean ====
section
/-!
SUPPORT. When the checks of a command fail, and that a recorded error is what `Raises` says.
-/

namespace Sys2Proof.Machine

open Sys2Proof.Safety

/-- Recording an error with the word in `CMD` is what `Raises` says, whatever the record holds. -/
theorem raises_recordError (e : ErrCode) (info : Word) (s : State) : Raises (.next (recordError e s.cmd info s)) s e info :=
  ⟨fun h => by rw [recordError_of_not_err h], fun h => by rw [recordError_of_err h]⟩

theorem finalizeCheck_eq_none {s : State} : finalizeCheck s = none ↔ FinalizeReady s := by
  unfold finalizeCheck FinalizeReady
  cases s.phase <;> simp

theorem lengthCheck_eq_none {s : State} : lengthCheck s = none ↔ s.hlena = s.hlenb := by
  simp [lengthCheck]

theorem encodingCheck_eq_none {s : State} :
    encodingCheck s = none ↔ ValidHex s.hbuf 0x100 s.hlena.toNat ∧ ValidHex s.hbuf 0x140 s.hlenb.toNat := by
  rw [← badHexPosition_eq_none, ← badHexPosition_eq_none]
  unfold encodingCheck operandA operandB
  split
  · simp [*]
  · split <;> simp [*]

theorem hambinCheck_eq_none {s : State} : hambinCheck s = none ↔ BinaryReady s := by
  unfold hambinCheck BinaryReady
  rw [Option.or_eq_none_iff, rangeCheck_eq_none, lengthCheck_eq_none]
  exact ⟨fun h => ⟨h.1.1, h.2⟩, fun h => ⟨⟨h.1, h.2 ▸ h.1⟩, h.2⟩⟩

theorem hamhexCheck_eq_none {s : State} : hamhexCheck s = none ↔ HexReady s := by
  unfold hamhexCheck HexReady
  rw [← hambinCheck_eq_none, hambinCheck, ← encodingCheck_eq_none]
  simp only [Option.or_eq_none_iff]
  tauto

/-- The checks of a command pass exactly when none fails as the rules state them. -/
theorem commandCheck_eq_none {i : Instr} {s : State} : commandCheck i s = none ↔ ¬ ChecksFail i s := by
  cases i with
  | tail k =>
    simp only [commandCheck, ChecksFail, tailCheck, absorbCheck]
    split_ifs <;> simp_all
  | _ => simp [commandCheck, ChecksFail, absorbCheck, finalizeCheck_eq_none, hamhexCheck_eq_none, hambinCheck_eq_none]

end Sys2Proof.Machine
end

