-- ==== Sys2Proof/Laws/Flags.lean ====
section
/-!
SUPPORT. The bits of `STATUS` and the number `{ROUND, 1'b0, PHASE}` stands for.
-/

namespace Sys2Proof.Machine

/-- `{ROUND, 1'b0, PHASE}` as a number. -/
theorem sessionBits_setWidth (s : State) :
    (sessionBits s).setWidth 32 = BitVec.ofNat 32 (16 * s.round.toNat + s.phase.code.toNat) := by
  apply BitVec.eq_of_toNat_eq
  unfold sessionBits
  change (BitVec.setWidth 32 ((s.round ++ 0#1 : BitVec (3 + 1)) ++ s.phase.code : BitVec (3 + 1 + 3))).toNat = _
  have h2 := s.phase.code.isLt
  rw [BitVec.toNat_setWidth, BitVec.toNat_append, BitVec.toNat_append, BitVec.toNat_ofNat, Nat.shiftLeft_eq, Nat.shiftLeft_eq]
  simp only [BitVec.toNat_ofNat, Nat.zero_mod, Nat.or_zero, Nat.pow_one]
  rw [show s.round.toNat * 2 * 2 ^ 3 = 2 ^ 3 * (s.round.toNat * 2) by omega, ← Nat.two_pow_add_eq_or_of_lt (by simpa using h2)]
  congr 1; omega

/-- The bits of `STATUS`, field by field. -/
theorem statusWord_getLsbD (s : State) (b : Nat) :
    (statusWord s).getLsbD b =
      if b < 3 then s.phase.code.getLsbD b else if b < 4 then false else if b < 7 then s.round.getLsbD (b - 4)
      else if b < 8 then false else if b < 9 then s.err else if b < 10 then s.errovf else if b < 12 then false
      else if b < 16 then s.errcode.code.getLsbD (b - 12) else false := by
  unfold statusWord sessionBits
  change (BitVec.setWidth 32
    ((((((s.errcode.code ++ 0#2 : BitVec (4 + 2)) ++ BitVec.ofBool s.errovf : BitVec (4 + 2 + 1)) ++ BitVec.ofBool s.err :
      BitVec (4 + 2 + 1 + 1)) ++ 0#1 : BitVec (4 + 2 + 1 + 1 + 1)) ++
      ((s.round ++ 0#1 : BitVec (3 + 1)) ++ s.phase.code : BitVec (3 + 1 + 3)) :
      BitVec (4 + 2 + 1 + 1 + 1 + (3 + 1 + 3))))).getLsbD b = _
  rw [BitVec.getLsbD_setWidth]
  simp only [BitVec.getLsbD_append]
  by_cases h16 : b < 16
  · interval_cases b <;> simp
  · simp only [show ¬ b < 3 by omega, show ¬ b < 4 by omega, show ¬ b < 7 by omega, show ¬ b < 8 by omega,
      show ¬ b < 9 by omega, show ¬ b < 10 by omega, show ¬ b < 12 by omega, h16, if_false]
    repeat rw [if_neg (by omega)]
    rw [BitVec.getLsbD_of_ge _ _ (by omega), Bool.and_false]

end Sys2Proof.Machine
end

