-- ==== Sys2Proof/Laws/PerInstr.lean ====
section
/-!
SUPPORT. Facts stated per command: the family `EncodedFields`.
-/

namespace Sys2Proof.Laws.EncodedFields

/-- The fields of an encoded command are the ones it was packed from, and `HI = 0` (30_encoding.md rules R45, R46). -/
def Statement (i : Instr) : Prop :=
  opField (encode i) = i.opcode ∧ argField (encode i) = i.argument ∧ hiField (encode i) = 0

/-- The fields of a packed word. -/
theorem of_packWord (op arg : BitVec 8) :
    opField (packWord op arg) = op ∧ argField (packWord op arg) = arg ∧ hiField (packWord op arg) = 0 := by
  refine ⟨?_, ?_, ?_⟩ <;> apply BitVec.eq_of_getLsbD_eq <;> intro j hj
  · simp [opField, packWord, hj, show j < 32 by omega]
  · simp [argField, packWord, hj, show 8 + j < 32 by omega]
  · simp [hiField, packWord, BitVec.getLsbD_of_ge op (16 + j) (by omega), show ¬ 16 + j < 8 by omega, show 16 + j - 8 = 8 + j by omega]

theorem nop : Statement .nop := of_packWord _ _
theorem init : Statement .init := of_packWord _ _
theorem absorb : Statement .absorb := of_packWord _ _
theorem tail (k : BitVec 3) : Statement (.tail k) := of_packWord _ _
theorem fround : Statement .fround := of_packWord _ _
theorem final : Statement .final := of_packWord _ _
theorem rotl (a : BitVec 6) : Statement (.rotl a) := of_packWord _ _
theorem hamhex : Statement .hamhex := of_packWord _ _
theorem hambin : Statement .hambin := of_packWord _ _
theorem clrerr : Statement .clrerr := of_packWord _ _

end Sys2Proof.Laws.EncodedFields
end

