-- ==== Sys2Proof/Laws/Step.lean ====
section
/-!
SUPPORT. What a step can do, said once: the inversion of `step` and of the port operations it calls.
-/

namespace Sys2Proof.Machine

/-! ### Stores change only what the host writes -/

section
variable (r : Reg) (v : Word) (s : State)

@[simp] theorem storeReg_S : (storeReg r v s).S = s.S := by cases r <;> rfl
@[simp] theorem storeReg_n : (storeReg r v s).n = s.n := by cases r <;> rfl
@[simp] theorem storeReg_cnt : (storeReg r v s).cnt = s.cnt := by cases r <;> rfl
@[simp] theorem storeReg_phase : (storeReg r v s).phase = s.phase := by cases r <;> rfl
@[simp] theorem storeReg_round : (storeReg r v s).round = s.round := by cases r <;> rfl
@[simp] theorem storeReg_result : (storeReg r v s).result = s.result := by cases r <;> rfl
@[simp] theorem storeReg_err : (storeReg r v s).err = s.err := by cases r <;> rfl
@[simp] theorem storeReg_errovf : (storeReg r v s).errovf = s.errovf := by cases r <;> rfl
@[simp] theorem storeReg_errcode : (storeReg r v s).errcode = s.errcode := by cases r <;> rfl
@[simp] theorem storeReg_errcmd : (storeReg r v s).errcmd = s.errcmd := by cases r <;> rfl
@[simp] theorem storeReg_errinfo : (storeReg r v s).errinfo = s.errinfo := by cases r <;> rfl
@[simp] theorem storeReg_inReset : (storeReg r v s).inReset = s.inReset := by cases r <;> rfl
@[simp] theorem storeReg_port : (storeReg r v s).port = s.port := by cases r <;> rfl
@[simp] theorem storeReg_readData : (storeReg r v s).readData = s.readData := by cases r <;> rfl

/-- A store keeps the operand buffers in canonical form. -/
theorem storeReg_wf (h : Memory.wf s.hbuf) : Memory.wf (storeReg r v s).hbuf := by
  cases r with
  | HBUFA j => exact memWriteWord_wf h (by omega) (by omega) v
  | HBUFB j => exact memWriteWord_wf h (by omega) (by omega) v
  | _ => exact h

end

/-- Reading a register does not look at the port. -/
@[simp] theorem readReg_setPort (r : Reg) (s : State) (es : List PortEvent) : readReg r (s.setPort es) = readReg r s := by
  cases r <;> rfl

/-! ### The port -/

theorem step_nil {s : State} (h : s.port = []) : step s = .next s := by
  unfold step servePort; rw [h]

theorem step_cons {s : State} {e : PortEvent} {rest : List PortEvent} (h : s.port = e :: rest) :
    step s = serveEvent e (s.setPort rest) := by
  unfold step servePort; rw [h]

/-- When an access is served. -/
theorem serveAccess_next {off size : Nat} {s t : State} {o : Host.Outcome State Fault Refusal} :
    serveAccess off size s o = .next t ↔ s.inReset = false ∧ size = 4 ∧ off % 4 = 0 ∧ off < 0x200 ∧ o = .next t := by
  unfold serveAccess Config.windowBytes
  cases s.inReset <;> simp
  split_ifs <;> simp_all

/-- A legal access is served. -/
theorem serveAccess_of_legal {off : Nat} {s : State} (hr : s.inReset = false) (ha : off % 4 = 0) (hw : off < 0x200)
    (o : Host.Outcome State Fault Refusal) : serveAccess off 4 s o = o := by
  unfold serveAccess Config.windowBytes
  simp [hr, ha, Nat.not_le.2 hw]

/-- Only offset 0 is `CMD`. -/
theorem regAt_eq_CMD {off : Nat} : regAt off = .CMD ↔ off = 0 := by
  constructor
  · contrapose
    intro h0
    unfold regAt controlRegAt
    repeat' split
    all_goals first | exact Reg.noConfusion | exact absurd rfl h0
  · rintro rfl; rfl

/-- What running a word does: the decoded command, or the recorded error. -/
theorem runCommand_cases (c : Word) (s : State) :
    (∃ i, decode c = .ok i ∧ runCommand c s = exec i s) ∨
      (∃ d, decode c = .error d ∧ runCommand c s = .next (recordError .illegalCommand s.cmd 0 s)) := by
  unfold runCommand
  match hd : decode c with
  | .ok i => exact .inl ⟨i, rfl, rfl⟩
  | .error d => exact .inr ⟨d, rfl, rfl⟩

/-- A step on a legal read. -/
theorem step_read {s : State} {off : Nat} {rest : List PortEvent} (hp : s.port = .read off 4 :: rest)
    (hr : s.inReset = false) (ha : off % 4 = 0) (hw : off < 0x200) :
    step s = .next ((s.setPort rest).pushRead (readReg (regAt off) s)) := by
  rw [step_cons hp]
  exact (serveAccess_of_legal (s := s.setPort rest) hr ha hw _).trans (by rw [readReg_setPort])

/-- A step on a legal write to a register other than `CMD`. -/
theorem step_store {s : State} {off : Nat} {v : Word} {rest : List PortEvent} (hp : s.port = .write off 4 v :: rest)
    (hr : s.inReset = false) (ha : off % 4 = 0) (hw : off < 0x200) (h0 : off ≠ 0) :
    step s = .next (storeReg (regAt off) v (s.setPort rest)) := by
  rw [step_cons hp]
  exact (serveAccess_of_legal (s := s.setPort rest) hr ha hw _).trans (if_neg fun h => h0 (regAt_eq_CMD.1 h))

/-- A step on a write to `CMD`. -/
theorem step_commandWrite {s : State} {c : Word} {rest : List PortEvent} (hp : s.port = commandWrite c :: rest)
    (hr : s.inReset = false) : step s = runCommand c ((s.setPort rest).setCommand c) := by
  rw [step_cons hp]
  exact serveAccess_of_legal (s := s.setPort rest) hr rfl (by decide) _

/-- What a step that answers a next state did. -/
inductive StepCase (s : State) : State → Prop where
  /-- Nothing was delivered. -/
  | idle (hp : s.port = []) : StepCase s s
  /-- The host read a register. -/
  | read {off rest} (hp : s.port = .read off 4 :: rest) (hr : s.inReset = false) (ha : off % 4 = 0) (hw : off < 0x200) :
      StepCase s ((s.setPort rest).pushRead (readReg (regAt off) s))
  /-- The host wrote a register other than `CMD`. -/
  | store {off v rest} (hp : s.port = .write off 4 v :: rest) (hr : s.inReset = false) (ha : off % 4 = 0)
      (hw : off < 0x200) (hc : off ≠ 0) : StepCase s (storeReg (regAt off) v (s.setPort rest))
  /-- The host wrote a legal word to `CMD`. -/
  | command {c i rest t} (hp : s.port = .write 0 4 c :: rest) (hr : s.inReset = false) (hd : decode c = .ok i)
      (he : exec i ((s.setPort rest).setCommand c) = .next t) : StepCase s t
  /-- The host wrote an illegal word to `CMD`. -/
  | illegal {c d rest} (hp : s.port = .write 0 4 c :: rest) (hr : s.inReset = false) (hd : decode c = .error d) :
      StepCase s (recordError .illegalCommand c 0 ((s.setPort rest).setCommand c))
  /-- The platform drove the reset input. -/
  | reset {b rest} (hp : s.port = .resetLine b :: rest) : StepCase s (driveReset b (s.setPort rest))

/-- The inversion of `step`. -/
theorem step_next_cases {s t : State} (h : step s = .next t) : StepCase s t := by
  match hp : s.port with
  | [] =>
    rw [step_nil hp] at h
    injection h with h
    exact h ▸ .idle hp
  | .read off size :: rest =>
    rw [step_cons hp] at h
    obtain ⟨hr, rfl, ha, hw, h⟩ := serveAccess_next.1 h
    injection h with h
    rw [← h, readReg_setPort]
    exact .read hp hr ha hw
  | .write off size v :: rest =>
    rw [step_cons hp] at h
    obtain ⟨hr, rfl, ha, hw, h⟩ := serveAccess_next.1 h
    by_cases hc : off = 0
    · subst hc
      change runCommand v ((s.setPort rest).setCommand v) = .next t at h
      rcases runCommand_cases v ((s.setPort rest).setCommand v) with ⟨i, hd, he⟩ | ⟨d, hd, he⟩
      · exact .command hp hr hd (he ▸ h)
      · rw [he] at h
        injection h with h
        exact h ▸ .illegal hp hr hd
    · unfold writeReg at h
      rw [if_neg (fun h' => hc (regAt_eq_CMD.1 h'))] at h
      injection h with h
      exact h ▸ .store hp hr ha hw hc
  | .resetLine b :: rest =>
    rw [step_cons hp] at h
    injection h with h
    exact h ▸ .reset hp

/-! ### Runs -/

/-- A run goes on from the next state. -/
theorem run_succ {M : Host.Core} {s t : M.State} (h : M.step s = .next t) (k : Nat) : M.run (k + 1) s = M.run k t := by
  rw [Host.Core.run, h]

/-- A run of `a + b` steps is one of `a` steps and then one of `b`. -/
theorem run_add {M : Host.Core} (a b : Nat) {s t : M.State} (h : M.run a s = .next t) : M.run (a + b) s = M.run b t := by
  induction a generalizing s with
  | zero => cases h; rw [Nat.zero_add]
  | succ a ih =>
    rw [show a + 1 + b = (a + b) + 1 by omega]
    rw [Host.Core.run] at h ⊢
    match hs : M.step s with
    | .next u => rw [hs] at h; exact ih h
    | .fault _ => rw [hs] at h; cases h
    | .refused _ => rw [hs] at h; cases h

end Sys2Proof.Machine
end

