-- ==== Sys2Proof/Tests/Slice0.lean ====
section
/-!
SUPPORT. The model's own tests. Expected values are those of spec/95_test_vectors.md (the V- names) and of the rules'
examples, never the model's own answers. The second half gives, for every statement of Certificates/Slice0 with
hypotheses, states and operands that meet them.
-/

namespace Sys2Proof.Tests

open Sys2Proof.Machine Sys2Proof.Safety

/-! ### Helpers -/

/-- The next state of an outcome, if it is one. -/
def nextOf : Host.Outcome State Fault Refusal → Option State
  | .next t => some t
  | .fault _ => none
  | .refused _ => none

/-- The fault of an outcome, if it is one. -/
def faultOf : Host.Outcome State Fault Refusal → Option Fault
  | .next _ => none
  | .fault f => some f
  | .refused _ => none

/-- The refusal of an outcome, if it is one. -/
def refusalOf : Host.Outcome State Fault Refusal → Option Refusal
  | .next _ => none
  | .fault _ => none
  | .refused r => some r

/-- What `f` reads of the state a command leaves. -/
def after {α : Type} (f : State → α) (i : Instr) (s : State) : Option α := (nextOf (exec i s)).map f

/-- What `f` reads of the state one step leaves. -/
def afterStep {α : Type} (f : State → α) (s : State) : Option α := (nextOf (step s)).map f

/-- `STATUS` and `ERRINFO`. -/
def report (s : State) : Word × Word := (statusWord s, s.errinfo)

/-- The core after reset, with events delivered. -/
def delivered (events : List PortEvent) : State := { State.reset with port := events }

/-- Four state words. -/
def words (a b c d : Word) : StateWords := { w0 := a, w1 := b, w2 := c, w3 := d }

/-- A session in a phase, with `N` and `CNT`. -/
def session (S : StateWords) (n cnt : Word) (phase : Phase) (round : BitVec 3) : State :=
  { State.reset with S := S, n := n, cnt := cnt, phase := phase, round := round }

/-- The entries of a list of bytes from an offset on. -/
def cells (base : Nat) (bytes : List Byte) : Memory :=
  ((bytes.zipIdx).map fun c => (base + c.2, c.1)).filter fun c => c.2 ≠ 0

/-- The core after reset, with the two comparator operands loaded. -/
def operands (a b : List Byte) : State :=
  { State.reset with
    hbuf := cells 0x100 a ++ cells 0x140 b
    hlena := BitVec.ofNat 7 a.length
    hlenb := BitVec.ofNat 7 b.length }

/-! ### WellFormed: the one check refuses the one ill-formed term -/

theorem test_tail_zero_is_ill_formed : (Instr.tail 0).wellFormed = false := by decide

theorem test_tail_one_is_well_formed : (Instr.tail 1).wellFormed = true := by decide

/-! ### Words written out from 30_encoding.md rules R45 to R49, as `HI ++ ARG ++ OP` -/

theorem test_decode_nop : decode (0#16 ++ 0b00000000#8 ++ 0b00000000#8) = .ok .nop := by decide

theorem test_decode_init : decode (0#16 ++ 0b00000000#8 ++ 0b00000001#8) = .ok .init := by decide

theorem test_decode_absorb : decode (0#16 ++ 0b00000000#8 ++ 0b00000010#8) = .ok .absorb := by decide

theorem test_decode_tail : decode (0#16 ++ 0b00000101#8 ++ 0b00000011#8) = .ok (.tail 5) := by decide

theorem test_decode_fround : decode (0#16 ++ 0b00000000#8 ++ 0b00000100#8) = .ok .fround := by decide

theorem test_decode_final : decode (0#16 ++ 0b00000000#8 ++ 0b00000101#8) = .ok .final := by decide

theorem test_decode_rotl : decode (0#16 ++ 0b00100100#8 ++ 0b00000110#8) = .ok (.rotl 36) := by decide

theorem test_decode_hamhex : decode (0#16 ++ 0b00000000#8 ++ 0b00000111#8) = .ok .hamhex := by decide

theorem test_decode_hambin : decode (0#16 ++ 0b00000000#8 ++ 0b00001000#8) = .ok .hambin := by decide

theorem test_decode_clrerr : decode (0#16 ++ 0b00000000#8 ++ 0b00001111#8) = .ok .clrerr := by decide

/-- V-ENC-1: the eight illegal words, each written to `CMD` after reset. -/
theorem test_illegal_words :
    ([0x00000003, 0x00000803, 0x00000101, 0x00010000, 0x00000009, 0x00000010, 0x000000FF, 0x00004006] : List Word).all
      (fun c => afterStep (fun t => (report t, t.errcmd)) (delivered [commandWrite c]) = some ((0x00001100, 0), c)) := by
  decide

/-- The table's words of the rows without operands, and that the row of TAIL with `k = 0` is no command (rule R50). -/
theorem test_table_words :
    decodeTableWord 32 0x0F = some .clrerr ∧ decodeTableWord 32 0x03 = none ∧ decodeTableWord 32 0x3F06 = some (.rotl 63) := by
  decide

theorem test_withFetchWord_runs_first :
    afterStep (fun t => (t.phase, t.cmd)) (State.reset.withFetchWord 32 1) = some (.absorb, 1) := by decide

/-! ### One step of each command -/

/-- V-CTL-1. -/
theorem test_nop : after (fun t => (t.phase, statusWord t)) .nop (session (words 1 2 3 4) 0 0 .finalizing 2) =
    some (.finalizing, 0x00000023) := by decide

/-- V-CTL-2. -/
theorem test_clrerr :
    after (fun t => (statusWord t, t.errcmd, t.errinfo)) .clrerr
      { State.reset with err := true, errovf := true, errcode := .lengthMismatch, errcmd := 7, errinfo := 0x4020 } =
    some (0, 0, 0) := by decide

/-- V-INIT-4. -/
theorem test_init_largest : after (fun t => (t.S, t.n)) .init { State.reset with len := 0xFFFFFFFF } =
    some (words 0xDBC09577 0x85A308D3 0x13198A2E 0xFC8F8CBC, 0xFFFFFFFF) := by decide

/-- V-INIT-6. -/
theorem test_init_discards : after (fun t => (t.S, t.cnt, statusWord t)) .init
    { session (words 0x5C3F2547 0x5ABC6F59 0x83074E0D 0xB968009C) 0 0 .finalizing 1 with len := 8 } =
    some (words 0x243F6A80 0x85A308D3 0x13198A2E 0x03707304, 0, 1) := by decide

/-- V-ABS-1. -/
theorem test_absorb : after (fun t => (t.S, t.cnt)) .absorb
    { session (words 0x243F6A80 0x85A308D3 0x13198A2E 0x03707304) 8 0 .absorb 0 with din0 := 0x64636261, din1 := 0x68676665 } =
    some (words 0x640AFEDD 0x40B65FD3 0x0D7BB1E2 0x51F5BAA1, 8) := by decide

/-- V-ERR-1. -/
theorem test_absorb_out_of_order : after report .absorb State.reset = some (0x00002100, 0) := by decide

/-- V-TAIL-2. -/
theorem test_tail_ignores_stale_lanes : after (fun t => (t.S, t.cnt, t.phase)) (.tail 3)
    { session (words 0x243F6A8B 0x85A308D3 0x13198A2E 0x0370735C) 3 0 .absorb 0 with din0 := 0xFF636261, din1 := 0xFFFFFFFF } =
    some (words 0x24A2CD04 0x85A308D0 0x16349D36 0x0370735C, 3, .tailed) := by decide

/-- V-TAIL-6. -/
theorem test_tail_second_word : after (fun t => (t.S, t.cnt)) (.tail 5)
    { session (words 0x1E691406 0x5CED841F 0x14D0D3B8 0xBABCF97D) 13 8 .absorb 0 with din0 := 0x646C726F, din1 := 0x00000021 } =
    some (words 0x82D5860D 0x5CED8431 0x38346733 0xBABCE9FD, 13) := by decide

/-- V-FIN-1, round 0. -/
theorem test_fround : after (fun t => (t.S, statusWord t)) .fround
    (session (words 0x243F6A88 0x85A308D3 0x13198A2E 0x03707344) 0 0 .absorb 0) =
    some (words 0x5C3F2547 0x5ABC6F59 0x83074E0D 0xB968009C, 0x00000013) := by decide

/-- V-FIN-1, round 5, whose third amount is 0. -/
theorem test_fround_last : after (fun t => (t.S, statusWord t)) .fround
    (session (words 0xE71D3D92 0x29CDEA0E 0x2118443B 0x3A7BE162) 0 0 .finalizing 5) =
    some (words 0x1C4F066E 0xDD1A8250 0xD50AEC9D 0x66E08AA0, 0x00000064) := by decide

/-- V-FIN-2. -/
theorem test_final : after (fun t => (t.S, statusWord t)) .final
    (session (words 0x640AFEDD 0x40B65FD3 0x0D7BB1E2 0x51F5BAA1) 8 8 .absorb 0) =
    some (words 0x2E19F44A 0x4FC19837 0xE5F61648 0x534F9E15, 0x00000064) := by decide +kernel

/-- V-FIN-5. -/
theorem test_final_count_mismatch : after report .final (session (words 1 2 3 4) 0 8 .absorb 0) =
    some (0x00003101, 8) := by decide

/-- V-ROT-9. -/
theorem test_rotl_reduces : after (fun t => t.result) (.rotl 36) { State.reset with opx := 0x12345678 } =
    some 0x23456781 := by decide

/-- V-ROT-10. -/
theorem test_rotl_largest : after (fun t => t.result) (.rotl 63) { State.reset with opx := 0x12345678 } =
    some 0x091A2B3C := by decide

/-- V-CMP-6: "DEADBEEF" against "00000000". -/
theorem test_hamhex : after (fun t => (t.result, statusWord t)) .hamhex
    (operands [0x44, 0x45, 0x41, 0x44, 0x42, 0x45, 0x45, 0x46] (List.replicate 8 0x30)) = some (24, 0) := by decide

/-- V-CMP-10: "0g0" against "00". -/
theorem test_hamhex_bad_character_first : after report .hamhex (operands [0x30, 0x67, 0x30] [0x30, 0x30]) =
    some (0x00005100, 0x001) := by decide

/-- V-CMP-19. -/
theorem test_hambin : after (fun t => t.result) .hambin (operands [0x00, 0xFF, 0x0F] [0xFF, 0xFF, 0x00]) = some 12 := by
  decide

/-- V-CMP-21. -/
theorem test_hambin_length_mismatch : after report .hambin { State.reset with hlena := 64, hlenb := 63 } =
    some (0x00006100, 0x3F40) := by decide

/-! ### The window and reset -/

/-- V-MEM-1 and V-MEM-2. -/
theorem test_reads_after_reset :
    ([0x01C, 0x038, 0x080, 0x180, 0x1FC] : List Nat).all
      (fun off => afterStep (fun t => t.readData) (delivered [.read off 4]) = some [0]) ∧
    afterStep (fun t => t.readData) (delivered [.read 0x060 4]) = some [0x30303030] := by decide

/-- `HEX0` of V-DIG-1. -/
theorem test_hex_view : readReg (regAt 0x060) (session (words 0x1C4F066E 0xDD1A8250 0xD50AEC9D 0x66E08AA0) 0 0 .done 6) =
    0x36306536 := by decide

/-- V-CMP-22. -/
theorem test_length_register_keeps_seven_bits :
    (afterStep (fun t => readReg (regAt 0x034) t) (delivered [.write 0x034 4 0xC1])) = some 0x41 := by decide

/-- 44_comparator.md rule R84. -/
theorem test_untruncated_reference : operandInfo 0 0x41 = 0x041 ∧
    after (fun t => t.errinfo) .hamhex
      { operands (List.replicate 32 0x30) (List.replicate 64 0x30) with cmd := 7 } = some 0x00004020 := by decide +kernel

/-- A word of V-CMP-19 lands lane 0 first, and writing 0 back empties the buffer's list. -/
theorem test_buffer_store :
    memWriteWord [] 0x100 0x000FFF00 = [(0x101, 0xFF), (0x102, 0x0F)] ∧
      memWriteWord [(0x101, 0xFF), (0x102, 0x0F)] 0x100 0 = [] := by decide

/-! ### Witnesses: states and operands that meet the hypotheses of each statement -/

theorem test_witness_DecodeInvertsEncode : (Instr.tail 7).wellFormed = true ∧ (Instr.rotl 63).wellFormed = true := by decide

theorem test_witness_DecodedWordIsItsEncoding : decode 0x00003F06 = .ok (.rotl 63) := by decide

theorem test_witness_OpcodeTableGivesTheWords :
    (∃ row ∈ opcodeTable, row.mnemonic = "TAIL") ∧ (∃ row ∈ opcodeTable, row.mnemonic = "ROTL") ∧
      (0x00003F06 : Word) &&& 0xFFFFC0FF = 0x00000006 := by decide

theorem test_witness_IllegalWordsOnlyRaiseIllegalCommand :
    (delivered [commandWrite 0x00000803]).inReset = false ∧
      (delivered [commandWrite 0x00000803]).port = commandWrite 0x00000803 :: [] ∧ ¬ Legal 0x00000803 ∧
      (delivered []).err = false ∧ ({ delivered [commandWrite 0x00000803] with err := true }).err = true := by decide

/-- Legality at its boundaries: `k` 1 and 7 but not 0 and 8, amount 0x3F but not 0x40. -/
theorem test_legal_boundaries :
    ([0x00000103, 0x00000703, 0x00003F06, 0x0000000F] : List Word).all (fun c => Legal c) ∧
      ([0x00000003, 0x00000803, 0x00004006, 0x0001000F, 0x00000010] : List Word).all (fun c => ¬ Legal c) := by decide

theorem test_witness_StepRunsTheDecodedCommand :
    (delivered [commandWrite 0x00000001]).inReset = false ∧
      (delivered [commandWrite 0x00000001]).port = commandWrite 0x00000001 :: [] ∧ decode 0x00000001 = .ok .init := by decide

theorem test_witness_CoreWaitsForTheHost : State.reset.port = [] := by decide

/-- Each clause at its boundary: reset asserted, 8 bytes, offset 2, offset 0x200, offset 0x1FC. -/
theorem test_witness_OnlyUndefinedAccessesStop :
    faultOf (step { delivered [.read 0 4] with inReset := true }) = some .accessInReset ∧
      faultOf (step { delivered [.write 0x200 8 0] with inReset := true }) = some .accessInReset ∧
      refusalOf (step (delivered [.read 0 8])) = some .accessSize ∧
      refusalOf (step (delivered [.write 2 4 0])) = some .misaligned ∧
      refusalOf (step (delivered [.read 0x200 4])) = some .outsideWindow ∧
      (nextOf (step (delivered [.read 0x1FC 4]))).isSome ∧ (nextOf (step (delivered [.resetLine true]))).isSome ∧
      (nextOf (step State.reset)).isSome := by decide

/-- The first and last word of the views and buffers. -/
theorem test_witness_RegisterReads :
    regAt 0x060 = .HEX 0 ∧ regAt 0x07C = .HEX 7 ∧ regAt 0x100 = .HBUFA 0 ∧ regAt 0x13C = .HBUFA 15 ∧
      regAt 0x140 = .HBUFB 0 ∧ regAt 0x17C = .HBUFB 15 := by decide

/-- The buffers of a state with bytes in them are canonical; the clauses' offsets at the ends of their ranges. -/
theorem test_witness_RegisterWrites :
    MemoryInv (operands [0x30, 0x31] [0x66]) ∧
      ([0x100, 0x17C] : List Nat).all (fun off => off % 4 = 0 ∧ 0x100 ≤ off ∧ off < 0x180) ∧
      ([0x004, 0x00C, 0x014, 0x018, 0x02C, 0x040, 0x04C, 0x060, 0x07C] : List Nat).all
        (fun off => off % 4 = 0 ∧ ((0x004 ≤ off ∧ off < 0x010) ∨ (0x014 ≤ off ∧ off < 0x01C) ∨ off = 0x02C ∨
          (0x040 ≤ off ∧ off < 0x050) ∨ (0x060 ≤ off ∧ off < 0x080))) := by
  unfold MemoryInv; decide

/-- The reserved offsets at the ends of their ranges, and the registers just outside them. -/
theorem test_witness_ReservedOffsetsAreInert :
    ([0x01C, 0x038, 0x03C, 0x050, 0x05C, 0x080, 0x0FC, 0x180, 0x1FC] : List Nat).all
      (fun off => off % 4 = 0 ∧ regAt off = .reserved) ∧
      ([0x018, 0x020, 0x034, 0x040, 0x04C, 0x060, 0x07C, 0x100, 0x17C] : List Nat).all (fun off => regAt off ≠ .reserved) := by
  decide

theorem test_witness_WritingTwiceIsWritingOnce : MemoryInv State.reset ∧ 0x1FC % 4 = 0 ∧ 0x1FC < 0x200 ∧ 0x1FC ≠ 0 := by
  unfold MemoryInv; decide

theorem test_witness_CanonicalMemoriesAreEqual :
    Memory.wf [(0x100, 1), (0x17F, 2)] ∧ ∀ a, memRead [(0x100, 1), (0x17F, 2)] a = memRead [(0x100, 1), (0x17F, 2)] a :=
  ⟨by decide, fun _ => rfl⟩

theorem test_witness_WindowsAreDisjoint :
    windowOffset ⟨0x1000, 0, rfl⟩ 0x11FF = some 0x1FF ∧ windowOffset ⟨0x1000, 0, rfl⟩ 0x1200 = none ∧
      windowOffset ⟨0x1200, 0, rfl⟩ 0x1200 = some 0 := by decide

/-- A complete session, and the status of programs P4 (`COUNT_MISMATCH`, `TAILED`) and P3 (`LENGTH_MISMATCH`, `DONE`). -/
theorem test_witness_StatusLayout :
    statusWord (session (words 1 2 3 4) 8 8 .done 6) = 0x00000064 ∧
      statusWord { session (words 1 2 3 4) 8 7 .tailed 0 with err := true, errcode := .countMismatch } = 0x00003102 ∧
      statusWord { session (words 1 2 3 4) 0 0 .done 6 with err := true, errcode := .lengthMismatch } = 0x00006164 := by decide

theorem test_witness_WhatCommandsMayWrite :
    (after (fun t => t.n) .init { State.reset with len := 8 } ≠ some 0) ∧
      (after (fun t => t.result) (.rotl 1) { State.reset with opx := 1 } ≠ some 0) ∧
      (after (fun t => t.phase) .init State.reset ≠ some .idle) := by decide

theorem test_witness_OnlyResetReturnsToIdle :
    afterStep (fun t => t.phase)
      { session (words 1 2 3 4) 0 0 .done 6 with inReset := true, port := [.resetLine false] } = some .idle := by decide

theorem test_witness_RotateFormula : 64 % 32 = 0 ∧ 31 % 32 ≠ 0 ∧ rotl32 0x80000001 31 = 0xC0000000 := by decide

/-- V-ROT-15 and V-ROT-16: amounts 4 and 0 undone. -/
theorem test_witness_RotateLaws : 31 < 32 ∧ rotl32 (rotl32 0x12345678 4) 28 = 0x12345678 ∧
    rotl32 (rotl32 0x12345678 0) 32 = 0x12345678 := by decide

theorem test_witness_RotlRotatesOpx : (0 : BitVec 6) = 0 ∧ (32 : BitVec 6) = 32 ∧ State.reset.opx = 0 ∧
    ({ State.reset with opx := 0xFFFFFFFF } : State).opx = 0xFFFFFFFF := by decide

theorem test_witness_AbsorbFoldsBlock : State.reset.phase ≠ .absorb ∧ (session (words 1 2 3 4) 8 0 .absorb 0).phase = .absorb := by
  decide

/-- `k` of 0, of 1 and of 7 with their block words. -/
theorem test_witness_TailFoldsPaddedBlock :
    (0 : BitVec 3) = 0 ∧ State.reset.phase ≠ .absorb ∧ (session (words 1 2 3 4) 7 0 .absorb 0).phase = .absorb ∧
      (∀ i < 4, (0x00000061 : Word).extractLsb' (8 * i) 8 =
        if i < (1 : BitVec 3).toNat then (0x64636261 : Word).extractLsb' (8 * i) 8 else 0) ∧
      (∀ i < 4, (0x00676665 : Word).extractLsb' (8 * i) 8 =
        if i + 4 < (7 : BitVec 3).toNat then (0x68676665 : Word).extractLsb' (8 * i) 8 else 0) := by decide

theorem test_witness_TailIgnoresStaleLanes :
    (∀ i < 4, i < (3 : BitVec 3).toNat → (0xFF636261 : Word).extractLsb' (8 * i) 8 = (0x00636261 : Word).extractLsb' (8 * i) 8) ∧
      (∀ i < 4, i + 4 < (3 : BitVec 3).toNat → (0xFFFFFFFF : Word).extractLsb' (8 * i) 8 = (0 : Word).extractLsb' (8 * i) 8) ∧
      (session (words 1 2 3 4) 3 0 .absorb 0).phase = .absorb ∧ (3 : BitVec 3) ≠ 0 ∧ (4 : BitVec 3).toNat ≤ 4 := by decide

theorem test_witness_RoundFunction : 0 < 6 ∧ 5 < 6 := by decide

theorem test_witness_RoundAmounts : ([5, 20, 6, 0, 6, 6, 7, 7, 6] : List Nat) ∈
    ([[0, 5, 3, 9, 13, 1, 2, 2, 1], [1, 8, 10, 20, 18, 2, 3, 3, 2], [2, 11, 17, 31, 23, 3, 4, 4, 3],
      [3, 14, 24, 10, 28, 4, 5, 5, 4], [4, 17, 31, 21, 1, 5, 6, 6, 5], [5, 20, 6, 0, 6, 6, 7, 7, 6]] : List (List Nat)) := by
  decide

/-- The conditions of `FROUND` and `FINAL`: no session, a finished one, a wrong count, and the three ready phases. -/
theorem test_witness_FroundRunsOneRound :
    State.reset.phase = .idle ∧ (session (words 1 2 3 4) 0 0 .done 6).phase = .done ∧
      (session (words 1 2 3 4) 10 8 .absorb 0).cnt ≠ (session (words 1 2 3 4) 10 8 .absorb 0).n ∧
      FinalizeReady (session (words 1 2 3 4) 0 0 .absorb 0) ∧ FinalizeReady (session (words 1 2 3 4) 3 3 .tailed 0) ∧
      FinalizeReady (session (words 1 2 3 4) 0 0 .finalizing 5) ∧ (5 : BitVec 3).toNat ≤ 5 := by
  unfold FinalizeReady; decide

/-- `FINAL` with no round done and with five done. -/
theorem test_witness_FinalRunsTheRemainingRounds :
    FinalizeReady (session (words 1 2 3 4) 0 0 .absorb 0) ∧ FinalizeReady (session (words 1 2 3 4) 0 0 .finalizing 5) ∧
      (session (words 1 2 3 4) 10 8 .tailed 0).cnt ≠ (session (words 1 2 3 4) 10 8 .tailed 0).n := by
  unfold FinalizeReady; decide

theorem test_witness_FinalAfterFroundIsFinal :
    FinalizeReady (session (words 1 2 3 4) 0 0 .absorb 0) ∧ (session (words 1 2 3 4) 0 0 .absorb 0).round.toNat < 5 ∧
      FinalizeReady (session (words 1 2 3 4) 0 0 .finalizing 5) ∧
      (session (words 1 2 3 4) 0 0 .finalizing 5).round.toNat = 5 := by
  unfold FinalizeReady; decide

/-- The state after `start 8` and `tail 7`, as in program P4: `N` is a multiple of 8. -/
theorem test_witness_UnneededTailIsCaught :
    SessionInv (session (words 0x88A2CCA1 0x85C46EBE 0x36349D39 0x30C34184) 8 7 .tailed 0) ∧
      (session (words 0x88A2CCA1 0x85C46EBE 0x36349D39 0x30C34184) 8 7 .tailed 0).n.toNat % 8 = 0 := by
  simp [SessionInv, session]

theorem test_witness_DigestIsFixedWhenDone :
    afterStep (fun t => t.S) { session (words 1 2 3 4) 0 0 .done 6 with port := [commandWrite 1] } ≠ some (words 1 2 3 4) ∧
      afterStep (fun t => t.S)
        { session (words 1 2 3 4) 0 0 .done 6 with inReset := true, port := [.resetLine false] } = some (words 0 0 0 0) := by
  decide

/-- A message with a full block and a tail: "abcdefghi". -/
theorem test_witness_HostSequenceComputesTinyHash32 :
    (delivered (digestEvents [0x61, 0x62, 0x63, 0x64, 0x65, 0x66, 0x67, 0x68, 0x69] ++ [.read 4 4])).inReset = false ∧
      (digestEvents [0x61, 0x62, 0x63, 0x64, 0x65, 0x66, 0x67, 0x68, 0x69]).length = 9 := by decide

/-- V-DIG-6. -/
theorem test_digest_words : tinyHash32Words [0x61, 0x62, 0x63, 0x64, 0x65, 0x66, 0x67, 0x68, 0x69] =
    words 0x2C8678C3 0xC68D6189 0xED85CB85 0xACFC8493 := by decide +kernel

/-- The first and last digest byte and character of V-DIG-1. -/
theorem test_witness_SerializerBytesAndCharacters :
    digestByte (words 0x1C4F066E 0xDD1A8250 0xD50AEC9D 0x66E08AA0) 0 = 0x6E ∧
      digestByte (words 0x1C4F066E 0xDD1A8250 0xD50AEC9D 0x66E08AA0) 15 = 0x66 ∧
      hexDigit (words 0x1C4F066E 0xDD1A8250 0xD50AEC9D 0x66E08AA0) 1 = 0x65 := by decide

/-- Both sides of every boundary of `hexval`. -/
theorem test_witness_HexDecoding :
    ([0x2F, 0x30, 0x39, 0x3A, 0x40, 0x41, 0x46, 0x47, 0x60, 0x61, 0x66, 0x67] : List Byte).map (fun c => hexval c) =
      [none, some 0, some 9, none, none, some 10, some 15, none, none, some 10, some 15, none] := by decide

/-- A string that decodes: "0fAA". -/
theorem test_witness_HexDecoding_string :
    badHexPosition [0x30, 0x66, 0x41, 0x41] = none ∧ ([0x30, 0x66, 0x41, 0x41] : List Byte)[2 * 0 + 1]? = some 0x66 ∧
      decodeHex [0x30, 0x66, 0x41, 0x41] = [0x0F, 0xAA] := by decide

/-- Strings of one length, as in V-CMP-19: 12 bits differ. -/
theorem test_witness_DistanceCountsDifferingBits :
    ([0x00, 0xFF, 0x0F] : List Byte).length = ([0xFF, 0xFF, 0x00] : List Byte).length ∧
      hammingDistance [0x00, 0xFF, 0x0F] [0xFF, 0xFF, 0x00] = 12 := by decide

/-- 64 characters "0" against 64 "f", as in V-CMP-16. -/
def longest : State := operands (List.replicate 64 0x30) (List.replicate 64 0x66)

/-- "00" against "ff", as in V-CMP-1. -/
def shortPair : State := operands [0x30, 0x30] [0x66, 0x66]

/-- `HAMHEX`, clause by clause: V-CMP-17, a long B, V-CMP-9 and V-CMP-7, V-CMP-8, V-CMP-12. -/
theorem test_witness_HamhexComparesHexStrings :
    64 < ({ State.reset with hlena := 65 } : State).hlena.toNat ∧
      (64 < ({ State.reset with hlena := 64, hlenb := 65 } : State).hlenb.toNat) ∧
      BadAt (operands [0x78, 0x30] [0x30, 0x67]).hbuf 0x100 2 0 ∧ BadAt (operands [0x61, 0x62, 0x63] []).hbuf 0x100 3 3 ∧
      (ValidHex (operands [0x30, 0x30] [0x30, 0x67]).hbuf 0x100 2 ∧ BadAt (operands [0x30, 0x30] [0x30, 0x67]).hbuf 0x140 2 1) ∧
      (ValidHex (operands [0x30, 0x30] [0x30, 0x30, 0x30, 0x30]).hbuf 0x100 2 ∧
        ValidHex (operands [0x30, 0x30] [0x30, 0x30, 0x30, 0x30]).hbuf 0x140 4) := by
  unfold BadAt ValidHex; decide

theorem test_witness_HexReady_empty : HexReady State.reset := by
  unfold HexReady BinaryReady ValidHex; decide

theorem test_witness_HexReady_longest : HexReady longest := by
  unfold HexReady BinaryReady ValidHex; decide +kernel

theorem test_witness_HamhexIsNibbleDistance : HexReady shortPair := by
  unfold HexReady BinaryReady ValidHex; decide

theorem test_witness_HambinComparesBytes :
    BinaryReady State.reset ∧ BinaryReady { State.reset with hlena := 64, hlenb := 64 } ∧
      ({ State.reset with hlena := 64, hlenb := 63 } : State).hlena ≠ ({ State.reset with hlena := 64, hlenb := 63 } : State).hlenb := by
  unfold BinaryReady; decide

/-- V-CMP-1 with its operands exchanged, and equal operands. -/
theorem test_witness_DistanceIsSymmetricBoundedAndExact :
    ComparatorReady .hamhex shortPair ∧ ComparatorReady .hambin shortPair ∧
      Swapped shortPair (operands [0x66, 0x66] [0x30, 0x30]) ∧
      SameBytes (operands [0x41] [0x41]).hbuf 0x100 (operands [0x41] [0x41]).hbuf 0x140 1 ∧
      (nextOf (exec .hamhex shortPair)).isSome ∧ (nextOf (exec .hambin shortPair)).isSome := by
  unfold ComparatorReady HexReady BinaryReady ValidHex Swapped SameBytes; decide +kernel

/-- "00", "ff" and "0f" as the three operands. -/
theorem test_witness_DistanceTriangleInequality :
    ComparatorReady .hamhex shortPair ∧ ComparatorReady .hamhex (operands [0x66, 0x66] [0x30, 0x66]) ∧
      ComparatorReady .hamhex (operands [0x30, 0x30] [0x30, 0x66]) ∧
      SameBytes (operands [0x30, 0x30] [0x30, 0x66]).hbuf 0x100 shortPair.hbuf 0x100 2 ∧
      SameBytes (operands [0x66, 0x66] [0x30, 0x66]).hbuf 0x100 shortPair.hbuf 0x140 2 ∧
      SameBytes (operands [0x30, 0x30] [0x30, 0x66]).hbuf 0x140 (operands [0x66, 0x66] [0x30, 0x66]).hbuf 0x140 2 ∧
      (nextOf (exec .hamhex shortPair)).isSome ∧ (nextOf (exec .hamhex (operands [0x66, 0x66] [0x30, 0x66]))).isSome ∧
      (nextOf (exec .hamhex (operands [0x30, 0x30] [0x30, 0x66]))).isSome := by
  unfold ComparatorReady HexReady BinaryReady ValidHex SameBytes; decide +kernel

/-- V-CMP-9 and its exchange: both operands are bad, at different positions. -/
theorem test_witness_SwappingKeepsTheErrorCode :
    Swapped (operands [0x78, 0x30] [0x30, 0x67]) (operands [0x30, 0x67] [0x78, 0x30]) ∧
      after report .hamhex (operands [0x78, 0x30] [0x30, 0x67]) = some (0x00005100, 0x000) ∧
      after report .hamhex (operands [0x30, 0x67] [0x78, 0x30]) = some (0x00005100, 0x001) := by
  unfold Swapped; decide +kernel

theorem test_witness_ControlCommands : (nextOf (exec .clrerr { State.reset with err := true })).isSome := by decide

/-- A failing check of each kind, and one command of each whose checks pass. -/
theorem test_witness_ErrorsAreRecordedWithoutOtherEffect_checks :
    ChecksFail .absorb State.reset ∧ ChecksFail (.tail 0) (session (words 1 2 3 4) 8 0 .absorb 0) ∧
      ChecksFail .final (session (words 1 2 3 4) 8 0 .absorb 0) ∧ ChecksFail .hamhex { State.reset with hlena := 1, hlenb := 1 } ∧
      ChecksFail .hambin { State.reset with hlena := 65, hlenb := 65 } ∧
      ¬ ChecksFail .fround (session (words 1 2 3 4) 8 8 .absorb 0) ∧ ¬ ChecksFail .hamhex State.reset ∧
      ¬ ChecksFail .init State.reset := by
  unfold ChecksFail FinalizeReady HexReady BinaryReady ValidHex; decide

/-- A first error, a later one and one more (V-ERR-1, V-ERR-3). -/
theorem test_witness_ErrorsAreRecordedWithoutOtherEffect :
    after (fun t => (t.err, t.errovf)) .absorb State.reset = some (true, false) ∧
      after (fun t => (t.err, t.errovf)) .absorb { State.reset with err := true } = some (true, true) ∧
      after (fun t => (t.err, t.errovf)) .absorb { State.reset with err := true, errovf := true } = some (true, true) ∧
      after (fun t => (t.err, t.errovf)) .nop State.reset = some (false, false) := by decide

theorem test_witness_DigestCommandsAreTotal :
    (nextOf (exec (.tail 1) (session (words 1 2 3 4) 1 0 .absorb 0))).isSome ∧
      (session (words 1 2 3 4) 1 0 .absorb 0).phase = .absorb ∧ (1 : BitVec 3) ≠ 0 ∧
      FinalizeReady (session (words 1 2 3 4) 0 0 .absorb 0) := by
  unfold FinalizeReady; decide

/-- The first and last word of the hex view, and the words beside it. -/
theorem test_witness_ResetReads :
    ([0x060, 0x07C] : List Nat).all (fun off => readReg (regAt off) State.reset = 0x30303030) ∧
      ([0x000, 0x05C, 0x080, 0x1FC] : List Nat).all (fun off => readReg (regAt off) State.reset = 0) := by decide

/-- Asserting reset, releasing it, and an access in between. After the release `inReset` is false. -/
theorem test_witness_ReleasingResetRestoresEveryRegister :
    (delivered [.resetLine true]).port = .resetLine true :: [] ∧
      afterStep (fun t => (t.opx, t.inReset))
        { delivered [.resetLine false] with inReset := true, opx := 5 } = some (0, false) ∧
      faultOf (step { delivered [.write 0x28 4 5] with inReset := true }) = some .accessInReset := by decide

theorem test_witness_CommandsAcceptedAfterReset : (1 : BitVec 3) ≠ 0 ∧ (7 : BitVec 3) ≠ 0 ∧ isolated .clrerr = true := by decide

theorem test_witness_OperandWritesLeaveTheSession :
    afterStep (fun t => (t.len, t.n))
      { session (words 1 2 3 4) 8 0 .absorb 0 with port := [.write 0x010 4 9] } = some (9, 8) := by decide

theorem test_witness_IsolatedCommandsIgnoreTheSession :
    isolated (.rotl 4) = true ∧ (nextOf (exec (.rotl 4) (session (words 1 2 3 4) 8 0 .absorb 0))).isSome := by decide

theorem test_witness_SessionDependsOnItsOperandsAlone :
    isolated .absorb = false ∧
      SameSession (session (words 1 2 3 4) 8 0 .absorb 0) { session (words 1 2 3 4) 8 0 .absorb 0 with opx := 7 } ∧
      (nextOf (exec .absorb (session (words 1 2 3 4) 8 0 .absorb 0))).isSome := by
  unfold SameSession; decide

/-- A store into a buffer that holds bytes. -/
theorem test_witness_StepKeepsMemoryCanonical :
    MemoryInv { operands [0x30, 0x31] [0x66] with port := [.write 0x104 4 0x00640000] } ∧
      (nextOf (step { operands [0x30, 0x31] [0x66] with port := [.write 0x104 4 0x00640000] })).isSome := by
  unfold MemoryInv; decide

/-- One state of each phase. -/
theorem test_witness_StepKeepsSessionOrder :
    SessionInv State.reset ∧ SessionInv (session (words 1 2 3 4) 16 8 .absorb 0) ∧
      SessionInv (session (words 1 2 3 4) 3 3 .tailed 0) ∧ SessionInv (session (words 1 2 3 4) 3 3 .finalizing 5) ∧
      SessionInv (session (words 1 2 3 4) 3 3 .done 6) := by
  simp [SessionInv, session, State.reset]

theorem test_witness_StepKeepsSessionOrder_step :
    (nextOf (step { session (words 1 2 3 4) 3 3 .finalizing 5 with port := [commandWrite 4] })).isSome := by decide

/-- The empty record and two of program P4. -/
theorem test_witness_StepKeepsErrorRecord :
    ErrorInv State.reset ∧
      ErrorInv { State.reset with err := true, errcode := .sequence, errcmd := 0x00000002, errinfo := 0 } ∧
      ErrorInv { State.reset with err := true, errovf := true, errcode := .countMismatch, errcmd := 5, errinfo := 7 } := by
  refine ⟨by simp [ErrorInv, State.reset], ?_, by simp [ErrorInv, ErrorRow]⟩
  show ErrorRow .sequence 2 0
  unfold ErrorRow; decide

end Sys2Proof.Tests
end

section
/-!
PROOFS. `STATUS` in the register window and its fields (10_state.md rules R27, R28; 20_memory.md rule R37).
-/

namespace Sys2Proof.Machine

open Sys2Proof.Safety

/-! ### Legal accesses, as a host sees them -/

/-- A legal read returns the register at its offset. -/
theorem readsAs_readReg {off : Nat} (ha : off % 4 = 0) (hw : off < 0x200) (s : State) :
    ReadsAs s off (readReg (regAt off) s) := by
  intro rest
  rw [step_read rfl rfl ha hw]
  cases regAt off <;> rfl

/-- A legal write to an offset other than that of `CMD` leaves the registers as the store does. -/
theorem writeLeaves_storeReg {off : Nat} (ha : off % 4 = 0) (hw : off < 0x200) (h0 : off ≠ 0) (v : Word) (s : State) :
    WriteLeaves s off v (storeReg (regAt off) v s) := by
  intro rest
  rw [step_store rfl rfl ha hw h0]
  cases regAt off <;> rfl

/-! ### The fields of `STATUS` -/

/-- A field of `STATUS` is the value whose bits stand there. -/
theorem statusWord_extractLsb'_eq {s : State} {start len : Nat} {x : BitVec len}
    (h : ∀ i < len, (statusWord s).getLsbD (start + i) = x.getLsbD i) : (statusWord s).extractLsb' start len = x := by
  apply BitVec.eq_of_getLsbD_eq
  intro i hi
  rw [BitVec.getLsbD_extractLsb', h i hi]
  simp [hi]

theorem statusWord_phase (s : State) : (statusWord s).extractLsb' 0 3 = s.phase.code :=
  statusWord_extractLsb'_eq fun i hi => by
    simp (disch := omega) only [statusWord_getLsbD, if_pos, Nat.zero_add]

theorem statusWord_round (s : State) : (statusWord s).extractLsb' 4 3 = s.round :=
  statusWord_extractLsb'_eq fun i hi => by
    simp (disch := omega) only [statusWord_getLsbD, if_pos, if_neg, Nat.add_sub_cancel_left]

theorem statusWord_errcode (s : State) : (statusWord s).extractLsb' 12 4 = s.errcode.code :=
  statusWord_extractLsb'_eq fun i hi => by
    simp (disch := omega) only [statusWord_getLsbD, if_pos, if_neg, Nat.add_sub_cancel_left]

theorem statusWord_zeros_below_errcode (s : State) : (statusWord s).extractLsb' 10 2 = 0 :=
  statusWord_extractLsb'_eq fun i hi => by
    simp (disch := omega) only [statusWord_getLsbD, if_pos, if_neg, BitVec.ofNat_eq_ofNat, BitVec.getLsbD_zero]

theorem statusWord_zeros_above_errcode (s : State) : (statusWord s).extractLsb' 16 16 = 0 :=
  statusWord_extractLsb'_eq fun i hi => by
    simp (disch := omega) only [statusWord_getLsbD, if_neg, BitVec.ofNat_eq_ofNat, BitVec.getLsbD_zero]

/-- A complete session with no error recorded (rule R27's example). -/
theorem statusWord_of_complete_session {s : State} (hphase : s.phase = .done) (hround : s.round = 6) (herr : s.err = false)
    (hovf : s.errovf = false) (hcode : s.errcode = .noError) : statusWord s = 0x00000064 := by
  unfold statusWord sessionBits
  rw [hphase, hround, herr, hovf, hcode]
  rfl

/-- Settles O15: the accesses are those of a legal offset whose register is read-only, and each field is read off the
bits of `statusWord`. -/
theorem statusLayout : Obligations.StatusLayout := by
  intro s
  have haccess (v : Word) : ReadsAs s 0x004 (statusWord s) ∧ WriteLeaves s 0x004 v s :=
    ⟨readsAs_readReg rfl (by decide) s, writeLeaves_storeReg rfl (by decide) (by decide) v s⟩
  refine ⟨haccess, statusWord_phase s, ?bit3, statusWord_round s, ?bit7, ?err, ?errovf, statusWord_zeros_below_errcode s,
    statusWord_errcode s, statusWord_zeros_above_errcode s, rfl, statusWord_of_complete_session, rfl, rfl⟩
  all_goals exact statusWord_getLsbD s _

end Sys2Proof.Machine
end

section
/-!
PROOFS. The reserved offsets of the register window (10_state.md rule R28; 20_memory.md rule R36).
-/

namespace Sys2Proof.Machine

open Sys2Proof.Safety

/-- The offsets below 0x200 at which the table of rule R28 lists a reserved word. -/
def IsReservedOffset (off : Nat) : Prop :=
  off = 0x01C ∨ (0x038 ≤ off ∧ off < 0x040) ∨ (0x050 ≤ off ∧ off < 0x060) ∨ (0x080 ≤ off ∧ off < 0x100) ∨
    (0x180 ≤ off ∧ off < 0x200)

theorem IsReservedOffset.lt_windowBytes {off : Nat} (h : IsReservedOffset off) : off < 0x200 := by
  unfold IsReservedOffset at h
  omega

theorem IsReservedOffset.ne_zero {off : Nat} (h : IsReservedOffset off) : off ≠ 0 := by
  unfold IsReservedOffset at h
  omega

/-- No register stands at a reserved offset: the table of the control registers has no row for it, or the range between
two views is one of the reserved ranges. -/
theorem IsReservedOffset.regAt_eq {off : Nat} (h : IsReservedOffset off) : regAt off = .reserved := by
  obtain rfl | ⟨hlo, hhi⟩ | ⟨hlo, hhi⟩ | ⟨hlo, hhi⟩ | ⟨hlo, hhi⟩ := h
  · rfl
  · interval_cases off <;> rfl
  all_goals simp (disch := omega) only [regAt, if_pos, if_neg]

/-- Settles O11: no register stands at a reserved offset, so a read gives `readReg .reserved`, which is 0, and a write
leaves `storeReg .reserved`, which is the state it found. -/
theorem reservedOffsetsAreInert : Obligations.ReservedOffsetsAreInert := by
  intro s off v haligned hrange
  have hreserved : IsReservedOffset off := hrange
  have hread := readsAs_readReg haligned hreserved.lt_windowBytes s
  have hwrite := writeLeaves_storeReg haligned hreserved.lt_windowBytes hreserved.ne_zero v s
  rw [hreserved.regAt_eq] at hread hwrite
  exact ⟨hread, hwrite⟩

end Sys2Proof.Machine
end

section
/-!
PROOFS. Command words: the inversion of `decode`, the rows of the opcode table and the legal words (30_encoding.md rules
R45 to R50).
-/

namespace Sys2Proof

open Sys2Proof.Machine Sys2Proof.Safety

/-! ### The fields of a word -/

theorem toNat_opField (c : Word) : (opField c).toNat = c.toNat % 256 := by
  rw [opField, BitVec.extractLsb'_toNat, Nat.shiftRight_zero]

theorem toNat_argField (c : Word) : (argField c).toNat = c.toNat / 256 % 256 := by
  rw [argField, BitVec.extractLsb'_toNat, Nat.shiftRight_eq_div_pow]

theorem toNat_hiField (c : Word) : (hiField c).toNat = c.toNat / 65536 := by
  rw [hiField, BitVec.extractLsb'_toNat, Nat.shiftRight_eq_div_pow]
  omega

/-- The three fields make up the word. -/
theorem word_eq_iff_fields {c d : Word} :
    c = d ↔ hiField c = hiField d ∧ opField c = opField d ∧ argField c = argField d := by
  simp only [← BitVec.toNat_inj, toNat_hiField, toNat_opField, toNat_argField]
  omega

/-- The mask of the bits from `w` on tests for the numbers below `2 ^ w`. -/
theorem and_highBits_eq_zero_iff {n w : Nat} {a : BitVec n} : a &&& (BitVec.allOnes n <<< w) = 0 ↔ a.toNat < 2 ^ w := by
  constructor
  · intro h
    refine Nat.lt_pow_two_of_testBit _ fun j hj => ?_
    have hbit := congrArg (·.getLsbD j) h
    simp only [BitVec.getLsbD_and, BitVec.getLsbD_shiftLeft, BitVec.getLsbD_allOnes] at hbit
    by_cases hn : j < n
    · simpa [hn, Nat.not_lt.2 hj, show j - w < n by omega, BitVec.testBit_toNat] using hbit
    · exact BitVec.getLsbD_of_ge a j (Nat.not_lt.1 hn)
  · intro h
    refine BitVec.eq_of_getLsbD_eq fun j hj => ?_
    by_cases hw : j < w
    · simp [hw]
    · simp [BitVec.getLsbD, Nat.testBit_eq_false_of_lt (h.trans_le (Nat.pow_le_pow_right (by decide) (Nat.not_lt.1 hw)))]

/-- A row's fixed bits, where `ARG` has `w` free bits and otherwise every bit is fixed. -/
theorem and_eq_iff_of_freeBits {c mask pattern : Word} (op : BitVec 8) (w : Nat)
    (hmask : hiField mask = BitVec.allOnes 16 ∧ opField mask = BitVec.allOnes 8 ∧ argField mask = BitVec.allOnes 8 <<< w)
    (hpattern : hiField pattern = 0 ∧ opField pattern = op ∧ argField pattern = 0) :
    c &&& mask = pattern ↔ hiField c = 0 ∧ opField c = op ∧ (argField c).toNat < 2 ^ w := by
  obtain ⟨hmhi, hmop, hmarg⟩ := hmask
  obtain ⟨hphi, hpop, hparg⟩ := hpattern
  have hsplit : c &&& mask = pattern ↔ hiField c &&& hiField mask = hiField pattern ∧
      opField c &&& opField mask = opField pattern ∧ argField c &&& argField mask = argField pattern := by
    simp only [word_eq_iff_fields, hiField, opField, argField, BitVec.extractLsb'_and]
  rw [hsplit, hmhi, hmop, hmarg, hphi, hpop, hparg, BitVec.and_allOnes, BitVec.and_allOnes, and_highBits_eq_zero_iff]

/-! ### The arguments of the commands -/

/-- The commands whose `ARG` is 0 (rule R47). -/
def noArgInstrs : List Instr := [.nop, .init, .absorb, .fround, .final, .hamhex, .hambin, .clrerr]

theorem wellFormed_of_noArg {i : Instr} (h : i ∈ noArgInstrs) : i.wellFormed = true := by
  revert i; decide

theorem argument_of_noArg {i : Instr} (h : i ∈ noArgInstrs) : i.argument = 0 := by
  revert i; decide

theorem argument_tail_iff {a : BitVec 8} {k : BitVec 3} :
    (Instr.tail k).wellFormed = true ∧ a = (Instr.tail k).argument ↔ (1 ≤ a.toNat ∧ a.toNat ≤ 7) ∧ a.extractLsb' 0 3 = k := by
  have := k.isLt
  simp only [Instr.wellFormed, Instr.argument, bne_iff_ne, ne_eq, ← BitVec.toNat_inj, BitVec.toNat_setWidth,
    BitVec.extractLsb'_toNat, BitVec.ofNat_eq_ofNat, BitVec.toNat_ofNat, Nat.shiftRight_zero]
  omega

theorem argument_rotl_iff {a : BitVec 8} {r : BitVec 6} :
    a = (Instr.rotl r).argument ↔ a.toNat ≤ 0x3F ∧ a.extractLsb' 0 6 = r := by
  have := r.isLt
  simp only [Instr.argument, ← BitVec.toNat_inj, BitVec.toNat_setWidth, BitVec.extractLsb'_toNat, Nat.shiftRight_zero]
  omega

/-! ### The inversion of `decode` -/

theorem decodeNoArg_eq_ok_iff {c : Word} {i j : Instr} : decodeNoArg c i = .ok j ↔ argField c = 0 ∧ i = j := by
  unfold decodeNoArg
  split <;> simp_all

/-- A word decodes to a command exactly when the command has an encoding and the word's fields are those of it. -/
theorem decode_eq_ok_iff_fields {c : Word} {i : Instr} :
    decode c = .ok i ↔ i.wellFormed = true ∧ hiField c = 0 ∧ opField c = i.opcode ∧ argField c = i.argument := by
  constructor
  · intro h
    unfold decode at h
    split at h
    case isTrue => cases h
    case isFalse hhi =>
      have hhi := not_not.1 hhi
      split at h
      case h_4 hop =>
        split at h <;> cases h
        next hrange =>
          obtain ⟨hwf, harg⟩ := argument_tail_iff.2 ⟨hrange, rfl⟩
          exact ⟨hwf, hhi, BitVec.eq_of_toNat_eq hop, harg⟩
      case h_7 hop =>
        split at h <;> cases h
        next hrange => exact ⟨rfl, hhi, BitVec.eq_of_toNat_eq hop, argument_rotl_iff.2 ⟨hrange, rfl⟩⟩
      case h_11 => cases h
      all_goals
        obtain ⟨harg, rfl⟩ := decodeNoArg_eq_ok_iff.1 h
        exact ⟨rfl, hhi, BitVec.eq_of_toNat_eq ‹_›, harg⟩
  · rintro ⟨hwf, hhi, hop, harg⟩
    unfold decode
    rw [if_neg (not_not.2 hhi), hop]
    cases i
    case tail k =>
      obtain ⟨hrange, hk⟩ := argument_tail_iff.1 ⟨hwf, harg⟩
      exact (if_pos hrange).trans (by rw [kField, hk])
    case rotl r =>
      obtain ⟨hrange, hr⟩ := argument_rotl_iff.1 harg
      exact (if_pos hrange).trans (by rw [amtField, hr])
    all_goals exact decodeNoArg_eq_ok_iff.2 ⟨harg, rfl⟩

/-- A word decodes to a command exactly when the command has an encoding and the word is it. -/
theorem decode_eq_ok_iff {c : Word} {i : Instr} : decode c = .ok i ↔ i.wellFormed = true ∧ c = encode i := by
  obtain ⟨hop, harg, hhi⟩ := Laws.EncodedFields.of_packWord i.opcode i.argument
  rw [decode_eq_ok_iff_fields, word_eq_iff_fields, encode, hop, harg, hhi]

/-! ### The words of each mnemonic -/

theorem mnemonic_eq_TAIL_iff {i : Instr} : i.mnemonic = "TAIL" ↔ ∃ k, i = .tail k := by
  cases i <;> simp [Instr.mnemonic]

theorem mnemonic_eq_ROTL_iff {i : Instr} : i.mnemonic = "ROTL" ↔ ∃ a, i = .rotl a := by
  cases i <;> simp [Instr.mnemonic]

theorem mnemonic_eq_noArg_iff {i j : Instr} (h : i ∈ noArgInstrs) : j.mnemonic = i.mnemonic ↔ j = i := by
  revert i
  cases j <;> simp [noArgInstrs, Instr.mnemonic]

/-- The words of TAIL, whatever the `k`. -/
theorem decodes_to_TAIL_iff {c : Word} : (∃ i, decode c = .ok i ∧ i.mnemonic = "TAIL") ↔
    hiField c = 0 ∧ opField c = 0x03 ∧ 1 ≤ (argField c).toNat ∧ (argField c).toNat ≤ 7 := by
  constructor
  · rintro ⟨i, h, hi⟩
    obtain ⟨k, rfl⟩ := mnemonic_eq_TAIL_iff.1 hi
    obtain ⟨hwf, hhi, hop, harg⟩ := decode_eq_ok_iff_fields.1 h
    exact ⟨hhi, hop, (argument_tail_iff.1 ⟨hwf, harg⟩).1⟩
  · rintro ⟨hhi, hop, hrange⟩
    obtain ⟨hwf, harg⟩ := argument_tail_iff.2 ⟨hrange, rfl⟩
    exact ⟨_, decode_eq_ok_iff_fields.2 ⟨hwf, hhi, hop, harg⟩, rfl⟩

/-- The words of ROTL, whatever the amount. -/
theorem decodes_to_ROTL_iff {c : Word} : (∃ i, decode c = .ok i ∧ i.mnemonic = "ROTL") ↔
    hiField c = 0 ∧ opField c = 0x06 ∧ (argField c).toNat ≤ 0x3F := by
  constructor
  · rintro ⟨i, h, hi⟩
    obtain ⟨a, rfl⟩ := mnemonic_eq_ROTL_iff.1 hi
    obtain ⟨-, hhi, hop, harg⟩ := decode_eq_ok_iff_fields.1 h
    exact ⟨hhi, hop, (argument_rotl_iff.1 harg).1⟩
  · rintro ⟨hhi, hop, hrange⟩
    exact ⟨.rotl _, decode_eq_ok_iff_fields.2 ⟨rfl, hhi, hop, argument_rotl_iff.2 ⟨hrange, rfl⟩⟩, rfl⟩

/-! ### The rows of the opcode table -/

/-- The words of the row's mnemonic are those its `match` and `mask` give, and for TAIL `c[10:8] != 0` (rule R47). -/
def RowGivesWords (row : OpcodeRow) : Prop :=
  ∀ c : Word, (∃ i, decode c = .ok i ∧ i.mnemonic = row.mnemonic) ↔
    c &&& row.mask = row.pattern ∧ (row.mnemonic = "TAIL" → c.extractLsb' 8 3 ≠ 0)

theorem rowGivesWords_noArg {i : Instr} (h : i ∈ noArgInstrs) : RowGivesWords ⟨i.mnemonic, encode i, BitVec.allOnes 32⟩ := by
  intro c
  have hnotTail : i.mnemonic ≠ "TAIL" := by
    intro htail
    obtain ⟨k, rfl⟩ := mnemonic_eq_TAIL_iff.1 htail
    simp [noArgInstrs] at h
  simp only [mnemonic_eq_noArg_iff h, decode_eq_ok_iff, exists_eq_right, wellFormed_of_noArg h, true_and, hnotTail,
    false_imp_iff, and_true, BitVec.and_allOnes]

/-- `c[10:8] != 0` is `K != 0`, which a word with `ARG` below 8 has exactly when `ARG` is not 0. -/
theorem rowGivesWords_tail : RowGivesWords ⟨"TAIL", 0x00000003, 0xFFFFF8FF⟩ := by
  intro c
  have hk : c.extractLsb' 8 3 = 0 ↔ (argField c).toNat % 8 = 0 := by
    rw [← BitVec.toNat_inj, BitVec.extractLsb'_toNat, toNat_argField, Nat.shiftRight_eq_div_pow]
    simp only [BitVec.ofNat_eq_ofNat, BitVec.toNat_ofNat]
    omega
  rw [decodes_to_TAIL_iff, and_eq_iff_of_freeBits 0x03 3 ⟨rfl, rfl, rfl⟩ ⟨rfl, rfl, rfl⟩, ne_eq, hk]
  simp only [forall_const, and_assoc]
  refine and_congr_right' (and_congr_right' ?_)
  omega

theorem rowGivesWords_rotl : RowGivesWords ⟨"ROTL", 0x00000006, 0xFFFFC0FF⟩ := by
  intro c
  rw [decodes_to_ROTL_iff, and_eq_iff_of_freeBits 0x06 6 ⟨rfl, rfl, rfl⟩ ⟨rfl, rfl, rfl⟩]
  have hnotTail : "ROTL" ≠ "TAIL" := by decide
  simp only [hnotTail, false_imp_iff, and_true]
  refine and_congr_right' (and_congr_right' ?_)
  omega

theorem rowGivesWords_of_mem_opcodeTable : ∀ row ∈ opcodeTable, RowGivesWords row := by
  simp only [opcodeTable, List.forall_mem_cons]
  exact ⟨rowGivesWords_noArg (i := .nop) (by decide), rowGivesWords_noArg (i := .init) (by decide),
    rowGivesWords_noArg (i := .absorb) (by decide), rowGivesWords_tail,
    rowGivesWords_noArg (i := .fround) (by decide), rowGivesWords_noArg (i := .final) (by decide), rowGivesWords_rotl,
    rowGivesWords_noArg (i := .hamhex) (by decide), rowGivesWords_noArg (i := .hambin) (by decide),
    rowGivesWords_noArg (i := .clrerr) (by decide), List.forall_mem_nil _⟩

theorem exists_row_of_instr (i : Instr) : ∃ row ∈ opcodeTable, row.mnemonic = i.mnemonic := by
  cases i <;> simp [opcodeTable, Instr.mnemonic]

/-- Settles O3: each row by the fields its mask fixes, and the words of TAIL and ROTL as their encodings. -/
theorem opcodeTableGivesTheWords : Obligations.OpcodeTableGivesTheWords := by
  refine ⟨rowGivesWords_of_mem_opcodeTable, exists_row_of_instr,
    fun k hk => decode_eq_ok_iff.2 ⟨bne_iff_ne.2 hk, ?tail⟩, fun a => decode_eq_ok_iff.2 ⟨rfl, ?rotl⟩⟩
  all_goals simp [encode, packWord, Instr.opcode, Instr.argument]

/-! ### The legal words -/

/-- `Legal` on the fields of the word (rules R46, R48). -/
theorem legal_iff_fields {c : Word} :
    Legal c ↔ hiField c = 0 ∧ ((opField c ∈ noArgInstrs.map Instr.opcode ∧ argField c = 0) ∨
      (opField c = 0x03 ∧ 1 ≤ (argField c).toNat ∧ (argField c).toNat ≤ 7) ∨
      (opField c = 0x06 ∧ (argField c).toNat ≤ 0x3F)) := by
  simp only [Legal, ← toNat_hiField, ← toNat_opField, ← toNat_argField]
  simp [← BitVec.toNat_inj, noArgInstrs, Instr.opcode]

/-- The words that decode are the legal ones (rule R48). -/
theorem exists_decode_iff_legal {c : Word} : (∃ i, decode c = .ok i) ↔ Legal c := by
  rw [legal_iff_fields]
  constructor
  · rintro ⟨i, h⟩
    have hnoArg (hi : i ∈ noArgInstrs) : hiField c = 0 ∧ opField c ∈ noArgInstrs.map Instr.opcode ∧ argField c = 0 := by
      obtain ⟨-, hhi, hop, harg⟩ := decode_eq_ok_iff_fields.1 h
      exact ⟨hhi, List.mem_map.2 ⟨i, hi, hop.symm⟩, harg.trans (argument_of_noArg hi)⟩
    cases i
    case tail k =>
      obtain ⟨hhi, htail⟩ := decodes_to_TAIL_iff.1 ⟨_, h, rfl⟩
      exact ⟨hhi, .inr (.inl htail)⟩
    case rotl a =>
      obtain ⟨hhi, hrotl⟩ := decodes_to_ROTL_iff.1 ⟨_, h, rfl⟩
      exact ⟨hhi, .inr (.inr hrotl)⟩
    all_goals exact (hnoArg (by decide)).imp_right .inl
  · rintro ⟨hhi, ⟨hop, harg⟩ | htail | hrotl⟩
    · obtain ⟨i, hi, hop⟩ := List.mem_map.1 hop
      exact ⟨i, decode_eq_ok_iff_fields.2 ⟨wellFormed_of_noArg hi, hhi, hop.symm, harg.trans (argument_of_noArg hi).symm⟩⟩
    · exact (decodes_to_TAIL_iff.2 ⟨hhi, htail⟩).imp fun _ h => h.1
    · exact (decodes_to_ROTL_iff.2 ⟨hhi, hrotl⟩).imp fun _ h => h.1

/-- Settles O4: a word that does not decode is run by recording the error. -/
theorem illegalWordsOnlyRaiseIllegalCommand : Obligations.IllegalWordsOnlyRaiseIllegalCommand := by
  refine ⟨fun _ => exists_decode_iff_legal, fun s c rest hreset hport hillegal => ?_⟩
  rw [step_commandWrite hport hreset]
  obtain ⟨i, hdecode, -⟩ | ⟨-, -, hrun⟩ := runCommand_cases c ((s.setPort rest).setCommand c)
  · exact absurd (exists_decode_iff_legal.1 ⟨i, hdecode⟩) hillegal
  · rw [hrun]
    exact raises_recordError .illegalCommand 0 ((s.setPort rest).setCommand c)

end Sys2Proof
end

section
/-!
PROOFS. The rotate: the bits of `rotl32`, its laws, and the command `ROTL` (40_rotate.md rules R54 to R56).
-/

namespace Sys2Proof.Machine

open Sys2Proof.Safety

/-! ### The bits of `rotl32` -/

/-- Bit `i` of the result comes from `r` places below, around the end (rule R54). -/
theorem getLsbD_rotl32 (x : Word) (r : Nat) {i : Nat} (hi : i < 32) :
    (rotl32 x r).getLsbD i = x.getLsbD ((i + (32 - r % 32)) % 32) := by
  rw [rotl32_eq_rotateLeft, BitVec.getLsbD_rotateLeft]
  by_cases hwrap : i < r % 32
  · simp only [hwrap, decide_true, cond_true, show (i + (32 - r % 32)) % 32 = 32 - r % 32 + i by omega]
  · simp only [hwrap, decide_false, cond_false, hi, decide_true, Bool.true_and,
      show (i + (32 - r % 32)) % 32 = i - r % 32 by omega]

theorem rotl32_of_mod_eq_zero {r : Nat} (h : r % 32 = 0) (x : Word) : rotl32 x r = x := if_pos h

theorem rotl32_mod (x : Word) (r : Nat) : rotl32 x (r % 32) = rotl32 x r := by
  simp only [rotl32, Nat.mod_mod]

/-- Settles O18: the formula is the definition, and the bits are `getLsbD_rotl32` with the source index over `Int`. -/
theorem rotateFormula : Obligations.RotateFormula := by
  refine fun x r => ⟨fun h => rotl32_of_mod_eq_zero h x, fun h => if_neg h, fun i hi => ?_⟩
  rw [getLsbD_rotl32 x r hi]
  congr 1
  omega

/-! ### The laws of `rotl32` -/

theorem rotl32_rotl32 (x : Word) (a b : Nat) : rotl32 (rotl32 x a) b = rotl32 x (a + b) := by
  refine BitVec.eq_of_getLsbD_eq fun i hi => ?_
  rw [getLsbD_rotl32 _ b hi, getLsbD_rotl32 x a (Nat.mod_lt _ (by decide)), getLsbD_rotl32 x (a + b) hi]
  congr 1
  omega

theorem rotl32_xor (x y : Word) (r : Nat) : rotl32 (x ^^^ y) r = rotl32 x r ^^^ rotl32 y r := by
  refine BitVec.eq_of_getLsbD_eq fun i hi => ?_
  simp only [BitVec.getLsbD_xor, getLsbD_rotl32 _ r hi]

/-- Subtracting `r` permutes the bit positions, so it carries the set bits of the result onto those of `x`. -/
theorem card_setBits_rotl32 (x : Word) (r : Nat) :
    (Finset.univ.filter fun i : Fin 32 => (rotl32 x r).getLsbD i = true).card =
      (Finset.univ.filter fun i : Fin 32 => x.getLsbD i = true).card := by
  refine Finset.card_equiv (Equiv.subRight (Fin.ofNat 32 r)) fun i => ?_
  have hsource : (i - Fin.ofNat 32 r).val = (i.val + (32 - r % 32)) % 32 := by
    rw [Fin.sub_def, Fin.val_ofNat, Nat.add_comm]
  simp only [Finset.mem_filter, Finset.mem_univ, true_and, Equiv.subRight_apply, hsource, getLsbD_rotl32 x r i.isLt]

/-- Settles O19: the inverse is the sum `r + (32 - r) = 32` of amounts. -/
theorem rotateLaws : Obligations.RotateLaws := by
  refine ⟨fun x r hr => ?inverse, rotl32_rotl32, fun x r => (rotl32_mod x r).symm, card_setBits_rotl32, rotl32_xor⟩
  rw [rotl32_rotl32, Nat.add_sub_cancel' hr.le]
  exact rotl32_of_mod_eq_zero rfl x

/-! ### The command `ROTL` -/

/-- A word whose bits are all alike is a fixed point (rule R55). -/
theorem rotl32_of_forall_getLsbD_eq {x : Word} {b : Bool} (h : ∀ i < 32, x.getLsbD i = b) (r : Nat) : rotl32 x r = x := by
  refine BitVec.eq_of_getLsbD_eq fun i hi => ?_
  rw [getLsbD_rotl32 x r hi, h _ (Nat.mod_lt _ (by decide)), h i hi]

/-- `ARG[4:0]` is the amount mod 32, so `ROTL a` rotates by `a`. -/
theorem exec_rotl (a : BitVec 6) (s : State) : exec (.rotl a) s = .next (s.setResult (rotl32 s.opx a.toNat)) := by
  have hamount : (a.extractLsb' 0 5).toNat = a.toNat % 32 := by
    rw [BitVec.extractLsb'_toNat, Nat.shiftRight_zero]
  rw [exec_of_check_none (i := .rotl a) (s := s) rfl, commandEffect, hamount, rotl32_mod]

/-- `ROTL a` answers `OPX` where the rotation leaves it as it is. -/
theorem exec_rotl_of_fixed {a : BitVec 6} {s : State} (h : rotl32 s.opx a.toNat = s.opx) :
    exec (.rotl a) s = .next { s with result := s.opx } := by
  rw [exec_rotl, h, State.setResult]

/-- Settles O20: the words are those of the opcode table, and the effect is `rotl32`, which is the library's rotate. -/
theorem rotlRotatesOpx : Obligations.RotlRotatesOpx := by
  obtain ⟨-, -, -, hdecode⟩ := opcodeTableGivesTheWords
  refine fun s a => ⟨hdecode a, ?rotated, fun ha => exec_rotl_of_fixed ?zeroAmount,
    fun hx => exec_rotl_of_fixed ?sameBits⟩
  case rotated => rw [exec_rotl, ← rotl32_mod, rotl32_eq_rotateLeft, State.setResult]
  case zeroAmount => obtain rfl | rfl := ha <;> exact rotl32_of_mod_eq_zero rfl s.opx
  case sameBits =>
    obtain hx | hx := hx <;> rw [hx]
    · exact rotl32_of_forall_getLsbD_eq (b := false) (by decide) _
    · exact rotl32_of_forall_getLsbD_eq (b := true) (by decide) _

end Sys2Proof.Machine
end

section
/-!
PROOFS. `INIT` and `ABSORB`: a new session, and one block folded into the state (41_absorb.md rules R59, R61).
-/

namespace Sys2Proof.Machine

open Sys2Proof.Safety

/-! ### Checks that fail -/

/-- A command with a failing check raises that check's error (60_exceptions.md rules R87, R91). -/
theorem raises_of_check_some {i : Instr} {s : State} {e : ErrCode} {info : Word} (h : commandCheck i s = some (e, info)) :
    Raises (exec i s) s e info := by
  rw [exec_of_check_some h]
  exact raises_recordError e info s

/-- A command that is out of the session order raises `SEQUENCE` with `{ROUND, 1'b0, PHASE}` (60_exceptions.md rule R89). -/
theorem raisesSequence_of_check_some {i : Instr} {s : State}
    (h : commandCheck i s = some (.sequence, (sessionBits s).setWidth 32)) : RaisesSequence (exec i s) s := by
  rw [sessionBits_setWidth] at h
  exact raises_of_check_some h

theorem absorbCheck_of_absorb {s : State} (h : s.phase = .absorb) : absorbCheck s = none := if_pos h

theorem absorbCheck_of_ne_absorb {s : State} (h : s.phase ≠ .absorb) :
    absorbCheck s = some (.sequence, (sessionBits s).setWidth 32) := if_neg h

/-! ### `INIT` -/

/-- `INIT` has no check, so it opens the session in every phase. -/
theorem exec_init (s : State) :
    exec .init s = .next { s with S := initWords s.len, n := s.len, cnt := 0, round := 0, phase := .absorb } :=
  exec_of_check_none rfl

theorem toNat_initWords_w0 (n : Word) : (initWords n).w0.toNat = 0x243F6A88 ^^^ n.toNat := BitVec.toNat_xor iv0 n

/-- `N << 3` is `8 N mod 2^32`. -/
theorem toNat_initWords_w3 (n : Word) : (initWords n).w3.toNat = 0x03707344 ^^^ (n.toNat * 8 % 2 ^ 32) := by
  rw [initWords, BitVec.toNat_xor, BitVec.toNat_shiftLeft, Nat.shiftLeft_eq]
  rfl

/-- Settles O21: the session is `initWords` of `LEN`, whose words are read as numbers. -/
theorem initOpensSession : Obligations.InitOpensSession :=
  ⟨decode_eq_ok_iff.2 ⟨rfl, by decide⟩, fun s =>
    ⟨initWords s.len, exec_init s, toNat_initWords_w0 s.len, rfl, rfl, toNat_initWords_w3 s.len⟩⟩

/-! ### `ABSORB` -/

/-- In phase `ABSORB` the block in `DIN0` and `DIN1` is folded into `S` and counted. -/
theorem exec_absorb {s : State} (h : s.phase = .absorb) :
    exec .absorb s = .next { s with S := absorbWords s.S s.din0 s.din1, cnt := s.cnt + 8 } :=
  exec_of_check_none (absorbCheck_of_absorb h)

/-- Settles O22: the updates are `absorbWords` with the library's rotate; outside phase `ABSORB` the one check fails. -/
theorem absorbFoldsBlock : Obligations.AbsorbFoldsBlock := by
  refine ⟨decode_eq_ok_iff.2 ⟨rfl, by decide⟩, fun s => ⟨fun hphase => ?sequence, fun hphase => ?updates⟩⟩
  case sequence => exact raisesSequence_of_check_some (absorbCheck_of_ne_absorb hphase)
  case updates =>
    simp only [exec_absorb hphase, absorbWords, rotl32_eq_rotateLeft, ka0, ka1, ka2, ka3]

end Sys2Proof.Machine
end

section
/-!
PROOFS. The round function, `FROUND` and `FINAL` (42_finalize.md rules R66 to R70).
-/

namespace Sys2Proof.Machine

open Sys2Proof.Safety

/-! ### The round function -/

/-- Rule R66 with the library's rotate; it holds at every `r`, also past the last round. -/
theorem roundWords_eq (r : Nat) (S : StateWords) :
    roundWords r S =
      { w0 := (0xDEADBEEF : Word) * ((S.w0 + S.w1).rotateLeft ((r * 3 + 5) % 32) ^^^ (S.w2 <<< (r + 1))),
        w1 := (0xBEEFDEAD : Word) * ((S.w1 + S.w2).rotateLeft ((r * 7 + 3) % 32) ^^^ (S.w3 >>> (r + 2))),
        w2 := (S.w2 + S.w3).rotateLeft ((r * 11 + 9) % 32) ^^^ (S.w0 <<< (r + 2)),
        w3 := (S.w3 + S.w0).rotateLeft ((r * 5 + 13) % 32) ^^^ (S.w1 >>> (r + 1)) } := by
  simp only [roundWords, rotl32_eq_rotateLeft, kf0, kf1]

/-- Settles O26: `roundWords_eq` at the six rounds. -/
theorem roundFunction : Obligations.RoundFunction := fun S r _ => roundWords_eq r S

/-- The row of rule R67's table for round `r`: `r`, the four rotate amounts and the four shift amounts, as rule R66
computes them. -/
def roundAmountsRow (r : Nat) : List Nat :=
  [r, (r * 3 + 5) % 32, (r * 7 + 3) % 32, (r * 11 + 9) % 32, (r * 5 + 13) % 32, r + 1, r + 2, r + 2, r + 1]

/-- The rows of rule R67's table are the computed ones. -/
theorem map_roundAmountsRow_range :
    (List.range 6).map roundAmountsRow =
      [[0, 5, 3, 9, 13, 1, 2, 2, 1], [1, 8, 10, 20, 18, 2, 3, 3, 2], [2, 11, 17, 31, 23, 3, 4, 4, 3],
        [3, 14, 24, 10, 28, 4, 5, 5, 4], [4, 17, 31, 21, 1, 5, 6, 6, 5], [5, 20, 6, 0, 6, 6, 7, 7, 6]] := by
  decide

/-- Settles O27: each row of the table is computed from its round, and at those amounts the claim is `roundWords_eq`. -/
theorem roundAmounts : Obligations.RoundAmounts := by
  intro S r a0 a1 a2 a3 l0 r1 l2 r3 hrow
  rw [← map_roundAmountsRow_range] at hrow
  obtain ⟨k, -, hcomputed⟩ := List.mem_map.1 hrow
  cases hcomputed
  exact roundWords_eq r S

/-! ### The rounds that remain -/

theorem runRounds_eq_foldl (count r : Nat) (S : StateWords) :
    runRounds count r S = (List.range' r count).foldl (fun S r => roundWords r S) S := by
  induction count generalizing r S with
  | zero => rfl
  | succ count ih => rw [runRounds, ih, List.range'_succ, List.foldl_cons]

theorem filter_le_range (n r : Nat) : (List.range n).filter (fun k => r ≤ k) = List.range' r (n - r) := by
  rw [← List.Ico.zero_bot, List.Ico.filter_le, Nat.zero_max, List.Ico]

theorem remainingRounds_eq_foldl (round : Nat) (S : StateWords) :
    remainingRounds round S = ((List.range 6).filter fun r => round ≤ r).foldl (fun S r => roundWords r S) S := by
  rw [filter_le_range, remainingRounds, runRounds_eq_foldl]

/-! ### The checks of `FROUND` and `FINAL` -/

theorem finalizeCheck_of_idle_or_done {s : State} (h : s.phase = .idle ∨ s.phase = .done) :
    finalizeCheck s = some (.sequence, (sessionBits s).setWidth 32) := by
  obtain h | h := h <;> rw [finalizeCheck, h]

/-- `FinStart` fails (rule R68). -/
theorem finalizeCheck_of_cnt_ne {s : State} (h : s.phase = .absorb ∨ s.phase = .tailed) (hcnt : s.cnt ≠ s.n) :
    finalizeCheck s = some (.countMismatch, s.cnt) := by
  obtain h | h := h <;> rw [finalizeCheck, h] <;> exact if_neg hcnt

/-! ### `FROUND` and `FINAL` -/

/-- The next round number is 6 exactly after round 5: no other number wraps to it. -/
theorem round_add_one_eq_six_iff {r : BitVec 3} : r + 1 = 6 ↔ r.toNat = 5 := by bv_omega

theorem exec_fround {s : State} (h : FinalizeReady s) :
    exec .fround s = .next { s with
      S := roundWords s.round.toNat s.S, round := s.round + 1,
      phase := if s.round.toNat = 5 then .done else .finalizing } := by
  simp only [← round_add_one_eq_six_iff]
  exact exec_of_check_none (finalizeCheck_eq_none.2 h)

theorem exec_final {s : State} (h : FinalizeReady s) :
    exec .final s = .next { s with S := remainingRounds s.round.toNat s.S, round := 6, phase := .done } :=
  exec_of_check_none (finalizeCheck_eq_none.2 h)

/-- Settles O28: the two failing checks raise their errors, and a ready session takes the round. -/
theorem froundRunsOneRound : Obligations.FroundRunsOneRound := by
  refine ⟨decode_eq_ok_iff.2 ⟨rfl, by decide⟩, fun s =>
    ⟨fun hphase => ?sequence, fun hphase hcnt => ?countMismatch, fun hready _ => ?oneRound⟩⟩
  case sequence => exact raisesSequence_of_check_some (finalizeCheck_of_idle_or_done hphase)
  case countMismatch => exact raises_of_check_some (finalizeCheck_of_cnt_ne hphase hcnt)
  case oneRound =>
    have hnext : BitVec.ofNat 3 (s.round.toNat + 1) = s.round + 1 := by bv_omega
    rw [exec_fround hready, hnext]

/-- Settles O29: the checks are those of `FROUND`, and the loop over the remaining rounds is `remainingRounds`. -/
theorem finalRunsTheRemainingRounds : Obligations.FinalRunsTheRemainingRounds := by
  refine ⟨decode_eq_ok_iff.2 ⟨rfl, by decide⟩, fun s =>
    ⟨fun hphase => ?sequence, fun hphase hcnt => ?countMismatch, fun hready => ?remaining⟩⟩
  case sequence => exact raisesSequence_of_check_some (finalizeCheck_of_idle_or_done hphase)
  case countMismatch => exact raises_of_check_some (finalizeCheck_of_cnt_ne hphase hcnt)
  case remaining => rw [exec_final hready, remainingRounds_eq_foldl]

end Sys2Proof.Machine
end

section
/-!
PROOFS. The serializer: the digest bytes and the hex characters of the state words (43_serializer.md rules R72, R74).
-/

namespace Sys2Proof.Machine

/-- State word `q` stands at place `q` of the four words. -/
theorem StateWords.get_ofNat (S : StateWords) {q : Nat} (hq : q < 4) :
    S.get (Fin.ofNat 4 q) = [S.w0, S.w1, S.w2, S.w3].getD q 0 := by
  interval_cases q <;> rfl

theorem hexDigit_two_mul (S : StateWords) (i : Nat) :
    hexDigit S (2 * i) = hexchar ((digestByte S i).extractLsb' 4 4) := by
  rw [hexDigit, if_pos (Nat.mul_mod_right 2 i), Nat.mul_div_cancel_left i two_pos]

theorem hexDigit_two_mul_add_one (S : StateWords) (i : Nat) :
    hexDigit S (2 * i + 1) = hexchar ((digestByte S i).extractLsb' 0 4) := by
  have hodd : ¬(2 * i + 1) % 2 = 0 := by omega
  have hhalf : (2 * i + 1) / 2 = i := by omega
  rw [hexDigit, if_neg hodd, hhalf]

/-- No sum of rule R74 wraps, and the subtraction is taken only from 10 on. -/
theorem toNat_hexchar (v : BitVec 4) :
    (hexchar v).toNat = if v.toNat ≤ 9 then 0x30 + v.toNat else 0x61 + (v.toNat - 10) := by
  unfold hexchar
  split
  case isTrue hdecimal => bv_omega
  case isFalse hletter => bv_omega

/-- Settles O33: a digest byte is a lane of its state word, and an even character is the high nibble of its byte. -/
theorem serializerBytesAndCharacters : Obligations.SerializerBytesAndCharacters := by
  refine fun S => ⟨fun i hi => ?bytes, fun i _ => ⟨hexDigit_two_mul S i, hexDigit_two_mul_add_one S i⟩, toNat_hexchar⟩
  have hword : i / 4 < 4 := by omega
  rw [digestByte, S.get_ofNat hword, lane]

end Sys2Proof.Machine
end

section
/-!
PROOFS. The comparator: hexadecimal strings, `HAMHEX` and `HAMBIN` (44_comparator.md rules R79, R80, R81, R83).
-/

namespace Sys2Proof.Machine

open Sys2Proof.Safety

/-! ### Characters -/

/-- No difference or sum of rule R79 wraps. -/
theorem map_toNat_hexval (c : Byte) :
    (hexval c).map BitVec.toNat =
      if 0x30 ≤ c.toNat ∧ c.toNat ≤ 0x39 then some (c.toNat - 0x30)
      else if 0x61 ≤ c.toNat ∧ c.toNat ≤ 0x66 then some (c.toNat - 0x61 + 10)
      else if 0x41 ≤ c.toNat ∧ c.toNat ≤ 0x46 then some (c.toNat - 0x41 + 10)
      else none := by
  unfold hexval
  split_ifs
  case pos hdigit => exact congrArg some (by bv_omega)
  case pos hlower => exact congrArg some (by bv_omega)
  case pos hupper => exact congrArg some (by bv_omega)
  case neg => rfl

/-- The value of a character is a nibble. -/
theorem toNat_hexval_lt (c : Byte) : ((hexval c).getD 0).toNat < 16 := by
  unfold hexval
  split_ifs <;> simp only [Option.getD_some, Option.getD_none] <;> bv_omega

/-! ### Strings -/

/-- Rule R79's valid strings, for any string; `badHexPosition_eq_none` is the case of an operand in its buffer. -/
theorem badHexPosition_eq_none_iff {xs : List Byte} :
    badHexPosition xs = none ↔ xs.length % 2 = 0 ∧ ∀ c ∈ xs, hexval c ≠ none := by
  have hvalid : xs.findIdx? (fun c => (hexval c).isNone) = none ↔ ∀ c ∈ xs, hexval c ≠ none := by
    simp only [List.findIdx?_eq_none_iff, Option.isNone_eq_false_iff, Option.isSome_iff_ne_none]
  rw [← hvalid]
  unfold badHexPosition
  cases xs.findIdx? fun c => (hexval c).isNone with
  | some p => simp
  | none => simp

theorem length_decodeHex (xs : List Byte) : (decodeHex xs).length = xs.length / 2 := by
  match xs with
  | [] => rfl
  | [_] => simp [decodeHex]
  | hi :: lo :: rest =>
    have hrest := length_decodeHex rest
    simp only [decodeHex, List.length_cons, hrest]
    omega

theorem getElem?_decodeHex {xs : List Byte} {i : Nat} {hi lo : Byte} (hhi : xs[2 * i]? = some hi)
    (hlo : xs[2 * i + 1]? = some lo) : (decodeHex xs)[i]? = some (hexPair hi lo) := by
  induction i generalizing xs with
  | zero =>
    match xs, hhi, hlo with
    | _ :: _ :: _, rfl, rfl => rfl
  | succ i ih =>
    match xs, hhi, hlo with
    | _ :: _ :: rest, hhi, hlo => exact ih (xs := rest) hhi hlo

/-- Two nibbles fit in a byte, so rule R79's product and sum do not wrap. -/
theorem toNat_hexPair (hi lo : Byte) :
    (hexPair hi lo).toNat = ((hexval hi).getD 0).toNat * 16 + ((hexval lo).getD 0).toNat := by
  have hhi := toNat_hexval_lt hi
  have hlo := toNat_hexval_lt lo
  unfold hexPair
  bv_omega

/-- Settles O36: the four ranges are the branches of `map_toNat_hexval`, and a pair of characters makes one byte. -/
theorem hexDecoding : Obligations.HexDecoding := by
  refine ⟨fun c => ⟨fun h => ?digit, fun h => ?lower, fun h => ?upper, fun h => ?other⟩, fun xs =>
    ⟨badHexPosition_eq_none_iff, fun _ => ⟨length_decodeHex xs, fun i hi lo hhi hlo => ?decodedByte⟩⟩⟩
  case digit => rw [map_toNat_hexval, if_pos h]
  case lower => rw [map_toNat_hexval, if_neg (by omega), if_pos h]
  case upper => rw [map_toNat_hexval, if_neg (by omega), if_neg (by omega), if_pos h]
  case other =>
    rw [← Option.map_eq_none_iff (f := BitVec.toNat), map_toNat_hexval, if_neg (by omega), if_neg (by omega),
      if_neg (by omega)]
  case decodedByte => rw [getElem?_decodeHex hhi hlo, Option.map_some, toNat_hexPair]

/-! ### The checks -/

/-- The detail of an error of operand A. -/
theorem operandInfo_zero {v : Nat} (hv : v < 256) : operandInfo 0 v = BitVec.ofNat 32 v :=
  (operandInfo_eq 0 hv).trans (by simp)

/-- The detail of an error of operand B. -/
theorem operandInfo_one {v : Nat} (hv : v < 256) : operandInfo 1 v = BitVec.ofNat 32 (256 + v) :=
  operandInfo_eq 1 hv

theorem rangeCheck_of_hlena {s : State} (h : 64 < s.hlena.toNat) :
    rangeCheck s = some (.operandRange, BitVec.ofNat 32 s.hlena.toNat) := by
  rw [rangeCheck, Config.hbufBytes, if_pos h, operandInfo_zero (by omega)]

theorem rangeCheck_of_hlenb {s : State} (ha : s.hlena.toNat ≤ 64) (h : 64 < s.hlenb.toNat) :
    rangeCheck s = some (.operandRange, BitVec.ofNat 32 (256 + s.hlenb.toNat)) := by
  rw [rangeCheck, Config.hbufBytes, if_neg (by omega), if_pos h, operandInfo_one (by omega)]

theorem lengthCheck_of_ne {s : State} (h : s.hlena.toNat ≠ s.hlenb.toNat) :
    lengthCheck s = some (.lengthMismatch, BitVec.ofNat 32 (256 * s.hlenb.toNat + s.hlena.toNat)) := by
  rw [lengthCheck, if_neg (fun heq => h (congrArg _ heq)), lengthInfo_eq]

theorem le_of_badAt {m : Memory} {base L p : Nat} (h : BadAt m base L p) : p ≤ L := by
  obtain ⟨hp, -⟩ | ⟨hp, -⟩ := h <;> omega

theorem encodingCheck_of_badAt_operandA {s : State} {p : Nat} (h : BadAt s.hbuf 0x100 s.hlena.toNat p) :
    encodingCheck s = some (.invalidEncoding, BitVec.ofNat 32 p) := by
  have hp := le_of_badAt h
  have hbad : badHexPosition (operandA s) = some p := badHexPosition_eq_some.2 h
  simp only [encodingCheck, hbad]
  rw [operandInfo_zero (by omega)]

theorem encodingCheck_of_badAt_operandB {s : State} {p : Nat} (ha : ValidHex s.hbuf 0x100 s.hlena.toNat)
    (h : BadAt s.hbuf 0x140 s.hlenb.toNat p) :
    encodingCheck s = some (.invalidEncoding, BitVec.ofNat 32 (256 + p)) := by
  have hp := le_of_badAt h
  have hgood : badHexPosition (operandA s) = none := badHexPosition_eq_none.2 ha
  have hbad : badHexPosition (operandB s) = some p := badHexPosition_eq_some.2 h
  simp only [encodingCheck, hgood, hbad]
  rw [operandInfo_one (by omega)]

/-! ### The effects -/

/-- Ready operands of `HAMBIN` have the same length, so every byte has its partner. -/
theorem exec_hambin {s : State} (h : BinaryReady s) :
    exec .hambin s = .next { s with
      result := BitVec.ofNat 32
        (∑ j ∈ Finset.range s.hlena.toNat, popcount (memRead s.hbuf (0x100 + j) ^^^ memRead s.hbuf (0x140 + j))) } := by
  have hB : operandB s = bufferBytes s.hbuf 0x140 s.hlena.toNat := by rw [operandB, ← h.2]
  rw [← hammingDistance_range, exec_of_check_none (i := .hambin) (hambinCheck_eq_none.2 h), commandEffect, hB]
  rfl

/-- Ready operands of `HAMHEX` have the same even length, and byte `i` of each is decoded from its own two characters. -/
theorem exec_hamhex {s : State} (h : HexReady s) :
    exec .hamhex s = .next { s with
      result := BitVec.ofNat 32
        (∑ i ∈ Finset.range (s.hlena.toNat / 2),
          popcount (decodedByte s.hbuf 0x100 i ^^^ decodedByte s.hbuf 0x140 i)) } := by
  have ⟨⟨_, hlen⟩, ⟨heven, _⟩, _⟩ := h
  have htwo : s.hlena.toNat = 2 * (s.hlena.toNat / 2) := by omega
  have hA : decodeHex (operandA s) = (List.range (s.hlena.toNat / 2)).map (decodedByte s.hbuf 0x100) := by
    rw [← decodeHex_bufferBytes, ← htwo, operandA]
  have hB : decodeHex (operandB s) = (List.range (s.hlena.toNat / 2)).map (decodedByte s.hbuf 0x140) := by
    rw [← decodeHex_bufferBytes, ← htwo, operandB, hlen]
  rw [exec_of_check_none (i := .hamhex) (hamhexCheck_eq_none.2 h), commandEffect, hA, hB, hammingDistance_range]
  rfl

/-- Settles O38: each clause names the first check that fails, and ready operands have the effect of `exec_hamhex`. -/
theorem hamhexComparesHexStrings : Obligations.HamhexComparesHexStrings := by
  refine ⟨decode_eq_ok_iff.2 ⟨rfl, by decide⟩, fun s =>
    ⟨fun ha => raises_of_check_some ?rangeA, fun ha hb => raises_of_check_some ?rangeB,
      fun ha hb p hbad => raises_of_check_some ?encodingA, fun ha hb hvalid p hbad => raises_of_check_some ?encodingB,
      fun ha hb hvalidA hvalidB hne => raises_of_check_some ?lengths, exec_hamhex⟩⟩
  case rangeA => rw [commandCheck, hamhexCheck, rangeCheck_of_hlena ha, Option.some_or]
  case rangeB => rw [commandCheck, hamhexCheck, rangeCheck_of_hlenb ha hb, Option.some_or]
  case encodingA =>
    rw [commandCheck, hamhexCheck, rangeCheck_eq_none.2 ⟨ha, hb⟩, Option.none_or, encodingCheck_of_badAt_operandA hbad,
      Option.some_or]
  case encodingB =>
    rw [commandCheck, hamhexCheck, rangeCheck_eq_none.2 ⟨ha, hb⟩, Option.none_or,
      encodingCheck_of_badAt_operandB hvalid hbad, Option.some_or]
  case lengths =>
    rw [commandCheck, hamhexCheck, rangeCheck_eq_none.2 ⟨ha, hb⟩, Option.none_or,
      encodingCheck_eq_none.2 ⟨hvalidA, hvalidB⟩, Option.none_or, lengthCheck_of_ne hne]

/-- Settles O39: the range checks are those of `HAMHEX`, and the lengths are compared next. -/
theorem hambinComparesBytes : Obligations.HambinComparesBytes := by
  refine ⟨decode_eq_ok_iff.2 ⟨rfl, by decide⟩, fun s =>
    ⟨fun ha => raises_of_check_some ?rangeA, fun ha hb => raises_of_check_some ?rangeB,
      fun ha hb hne => raises_of_check_some ?lengths, exec_hambin⟩⟩
  case rangeA => rw [commandCheck, hambinCheck, rangeCheck_of_hlena ha, Option.some_or]
  case rangeB => rw [commandCheck, hambinCheck, rangeCheck_of_hlenb ha hb, Option.some_or]
  case lengths =>
    rw [commandCheck, hambinCheck, rangeCheck_eq_none.2 ⟨ha, hb⟩, Option.none_or, lengthCheck_of_ne hne]

/-! ### Nibbles -/

/-- The bits of a byte made of two nibbles. -/
theorem getLsbD_nibbles {hi lo : Byte} (hhi : hi.toNat < 16) (hlo : lo.toNat < 16) (i : Nat) :
    (hi * 16 + lo).getLsbD i = if i < 4 then lo.getLsbD i else hi.getLsbD (i - 4) := by
  have hsum : (hi * 16 + lo).toNat = 2 ^ 4 * hi.toNat + lo.toNat := by bv_omega
  simp only [← BitVec.testBit_toNat, hsum, Nat.testBit_two_pow_mul_add (i := 4) _ hlo]

/-- A bit count taken over the two nibbles. -/
theorem countP_range_eight (p : Nat → Bool) :
    (List.range 8).countP p = (List.range 4).countP p + (List.range 4).countP fun i => p (4 + i) := by
  rw [show 8 = 4 + 4 from rfl, List.range_add, List.countP_append, List.countP_map]
  rfl

/-- A nibble has no bit above bit 3. -/
theorem popcount_of_lt {v : Byte} (hv : v.toNat < 16) : popcount v = (List.range 4).countP fun i => v.getLsbD i := by
  have hhigh : ∀ i, v.getLsbD (4 + i) = false := fun i => by
    rw [← BitVec.testBit_toNat]
    exact Nat.testBit_lt_two_pow (hv.trans_le (Nat.pow_le_pow_right (n := 2) two_pos (Nat.le_add_right 4 i)))
  rw [popcount, countP_range_eight]
  simp [hhigh]

/-- Bits of different nibbles never meet in the XOR, so they are counted apart. -/
theorem popcount_xor_nibbles {hi lo hi' lo' : Byte} (hhi : hi.toNat < 16) (hlo : lo.toNat < 16) (hhi' : hi'.toNat < 16)
    (hlo' : lo'.toNat < 16) :
    popcount ((hi * 16 + lo) ^^^ (hi' * 16 + lo')) = popcount (hi ^^^ hi') + popcount (lo ^^^ lo') := by
  have hx : (hi ^^^ hi').toNat < 16 := by rw [BitVec.toNat_xor]; exact Nat.xor_lt_two_pow (n := 4) hhi hhi'
  have hy : (lo ^^^ lo').toNat < 16 := by rw [BitVec.toNat_xor]; exact Nat.xor_lt_two_pow (n := 4) hlo hlo'
  rw [popcount_of_lt hx, popcount_of_lt hy, popcount, countP_range_eight, Nat.add_comm]
  simp only [BitVec.getLsbD_xor, getLsbD_nibbles hhi hlo, getLsbD_nibbles hhi' hlo', Nat.not_lt.2 (Nat.le_add_right 4 _),
    if_false, Nat.add_sub_cancel_left]
  exact Nat.add_left_cancel_iff.2 (List.countP_congr fun j hj => by simp only [List.mem_range.1 hj, if_true])

theorem sum_range_two_mul (f : Nat → Nat) (k : Nat) :
    ∑ j ∈ Finset.range (2 * k), f j = ∑ i ∈ Finset.range k, (f (2 * i) + f (2 * i + 1)) := by
  induction k with
  | zero => rfl
  | succ k ih => rw [Nat.mul_succ, Finset.sum_range_succ, Finset.sum_range_succ, ih, Finset.sum_range_succ, Nat.add_assoc]

/-- The Hamming distance of two characters' values. -/
def nibbleDistance (c d : Byte) : Nat := popcount ((hexval c).getD 0 ^^^ (hexval d).getD 0)

/-- A decoded byte's distance is that of its two characters. -/
theorem popcount_xor_decodedByte (m : Memory) (base base' i : Nat) :
    popcount (decodedByte m base i ^^^ decodedByte m base' i) =
      nibbleDistance (memRead m (base + 2 * i)) (memRead m (base' + 2 * i)) +
        nibbleDistance (memRead m (base + (2 * i + 1))) (memRead m (base' + (2 * i + 1))) :=
  popcount_xor_nibbles (toNat_hexval_lt _) (toNat_hexval_lt _) (toNat_hexval_lt _) (toNat_hexval_lt _)

/-- Settles O40: the sum over bytes of `exec_hamhex`, each byte split into its two characters. -/
theorem hamhexIsNibbleDistance : Obligations.HamhexIsNibbleDistance := by
  intro s h
  have ⟨_, ⟨heven, _⟩, _⟩ := h
  obtain ⟨k, hk⟩ : 2 ∣ s.hlena.toNat := Nat.dvd_of_mod_eq_zero heven
  rw [exec_hamhex h, hk, Nat.mul_div_cancel_left k two_pos, sum_range_two_mul]
  simp only [popcount_xor_decodedByte, nibbleDistance]

end Sys2Proof.Machine
end

section
/-!
PROOFS. The control commands `NOP` and `CLRERR` (45_control.md rules R85, R86).
-/

namespace Sys2Proof.Machine

/-- The bits of `STATUS` that report an error: `ERR`, `ERROVF` and `ERRCODE` (10_state.md rule R27). -/
abbrev IsErrorBit (b : Nat) : Prop := b = 8 ∨ b = 9 ∨ (12 ≤ b ∧ b ≤ 15)

/-- With the error state cleared, each error bit of `STATUS` shows a cleared field. -/
theorem statusWord_clearErrors_of_isErrorBit (s : State) {b : Nat} (hb : IsErrorBit b) :
    (statusWord (clearErrors s)).getLsbD b = false := by
  rw [statusWord_getLsbD]
  obtain rfl | rfl | ⟨hlow, hhigh⟩ := hb
  · exact clearErrors_err s
  · exact clearErrors_errovf s
  · have hcode : (clearErrors s).errcode.code = 0#4 := rfl
    simp (disch := omega) only [if_pos, if_neg, hcode, BitVec.getLsbD_zero]

/-- The other bits of `STATUS` show the phase, the round or a constant 0, which clearing the error state keeps. -/
theorem statusWord_clearErrors_of_not_isErrorBit (s : State) {b : Nat} (hb : ¬ IsErrorBit b) :
    (statusWord (clearErrors s)).getLsbD b = (statusWord s).getLsbD b := by
  simp only [statusWord_getLsbD, clearErrors_phase, clearErrors_round]
  obtain hsession | hzero | habove : b < 8 ∨ (10 ≤ b ∧ b < 12) ∨ 16 ≤ b := by omega
  · simp only [hsession, if_true]
  all_goals simp (disch := omega) only [if_pos, if_neg]

/-- Settles O44: each command's answer is its definition, and `STATUS` is read bit by bit, an error bit or another. -/
theorem controlCommands : Obligations.ControlCommands := by
  refine ⟨decode_eq_ok_iff.2 ⟨rfl, by decide⟩, decode_eq_ok_iff.2 ⟨rfl, by decide⟩, fun s => ⟨rfl, rfl, ?status⟩⟩
  case status =>
    intro t ht b
    obtain rfl : clearErrors s = t := Host.Outcome.next.inj ht
    by_cases hb : IsErrorBit b
    · rw [statusWord_clearErrors_of_isErrorBit s hb, decide_eq_true hb, Bool.not_true, Bool.and_false]
    · rw [statusWord_clearErrors_of_not_isErrorBit s hb, decide_eq_false hb, Bool.not_false, Bool.and_true]

end Sys2Proof.Machine
end

section
/-!
PROOFS. Recording errors: what a command does to the error record, whether its checks fail or pass, and which commands
no data value can stop (60_exceptions.md rules R88, R90, R92).
-/

namespace Sys2Proof.Machine

open Sys2Proof.Safety

/-! ### The codes the checks give -/

/-- What the checks report, if anything, has the code of an error, not `noError` (rule R89). -/
def NamesItsError (check : Option (ErrCode × Word)) : Prop := ∀ r ∈ check, r.1 ≠ .noError

theorem namesItsError_none : NamesItsError none := fun _ h => nomatch h

theorem namesItsError_some {e : ErrCode} (he : e ≠ .noError) (info : Word) : NamesItsError (some (e, info)) :=
  fun _ h => Option.some.inj h ▸ he

/-- The first failing check of two is one of the two. -/
theorem NamesItsError.or {c d : Option (ErrCode × Word)} (hc : NamesItsError c) (hd : NamesItsError d) :
    NamesItsError (c.or d) := by
  cases c with
  | none => exact hd
  | some _ => exact hc

theorem namesItsError_absorbCheck (s : State) : NamesItsError (absorbCheck s) := by
  unfold absorbCheck
  split
  · exact namesItsError_none
  · exact namesItsError_some (by decide) _

theorem namesItsError_tailCheck (k : BitVec 3) (s : State) : NamesItsError (tailCheck k s) := by
  unfold tailCheck
  split
  · exact namesItsError_some (by decide) _
  · exact namesItsError_absorbCheck s

theorem namesItsError_finalizeCheck (s : State) : NamesItsError (finalizeCheck s) := by
  unfold finalizeCheck
  cases s.phase with
  | idle | done => exact namesItsError_some (by decide) _
  | absorb | tailed =>
    dsimp only
    split
    · exact namesItsError_none
    · exact namesItsError_some (by decide) _
  | finalizing => exact namesItsError_none

theorem namesItsError_rangeCheck (s : State) : NamesItsError (rangeCheck s) := by
  unfold rangeCheck
  split_ifs
  · exact namesItsError_some (by decide) _
  · exact namesItsError_some (by decide) _
  · exact namesItsError_none

theorem namesItsError_encodingCheck (s : State) : NamesItsError (encodingCheck s) := by
  unfold encodingCheck
  split
  · exact namesItsError_some (by decide) _
  · split
    · exact namesItsError_some (by decide) _
    · exact namesItsError_none

theorem namesItsError_lengthCheck (s : State) : NamesItsError (lengthCheck s) := by
  unfold lengthCheck
  split
  · exact namesItsError_none
  · exact namesItsError_some (by decide) _

/-- A command's checks give no code but those of the errors. -/
theorem namesItsError_commandCheck (i : Instr) (s : State) : NamesItsError (commandCheck i s) := by
  cases i with
  | nop | init | rotl _ | clrerr => exact namesItsError_none
  | absorb => exact namesItsError_absorbCheck s
  | tail k => exact namesItsError_tailCheck k s
  | fround | final => exact namesItsError_finalizeCheck s
  | hamhex =>
    exact (namesItsError_rangeCheck s).or ((namesItsError_encodingCheck s).or (namesItsError_lengthCheck s))
  | hambin => exact (namesItsError_rangeCheck s).or (namesItsError_lengthCheck s)

/-! ### The error record after a command -/

/-- No effect but that of `CLRERR` writes an error field. -/
theorem sameErrors_commandEffect {i : Instr} (hi : i ≠ .clrerr) (s : State) : SameErrors s (commandEffect i s) := by
  cases i with
  | clrerr => exact absurd rfl hi
  | _ => exact ⟨rfl, rfl, rfl, rfl, rfl⟩

/-- A command none of whose checks fails keeps the error record. -/
theorem sameErrors_of_not_checksFail {i : Instr} {s t : State} (h : exec i s = .next t) (hi : i ≠ .clrerr)
    (hpass : ¬ ChecksFail i s) : SameErrors s t := by
  rw [exec_of_check_none (commandCheck_eq_none.2 hpass)] at h
  exact Host.Outcome.next.inj h ▸ sameErrors_commandEffect hi s

/-- Settles O45: a command whose checks fail has a first failing check and records its error; one whose checks pass has
its effect, which writes no error field. -/
theorem errorsAreRecordedWithoutOtherEffect : Obligations.ErrorsAreRecordedWithoutOtherEffect := by
  intro i s hi
  refine ⟨fun hfail => ?_, fun hpass => ?_⟩
  · have hne : commandCheck i s ≠ none := fun hnone => commandCheck_eq_none.1 hnone hfail
    obtain ⟨⟨code, info⟩, hcheck⟩ := Option.ne_none_iff_exists'.1 hne
    exact ⟨code, info, namesItsError_commandCheck i s _ hcheck, raises_of_check_some hcheck⟩
  · exact ⟨_, exec_of_check_none (commandCheck_eq_none.2 hpass), sameErrors_commandEffect hi s⟩

/-- Settles O46: the checks of `INIT` and `ROTL` never fail, and those of the other digest commands read the phase and
the byte count alone. -/
theorem digestCommandsAreTotal : Obligations.DigestCommandsAreTotal := by
  intro i s t h
  refine ⟨?anyPhase, ?absorbing, ?finalizing⟩
  case anyPhase =>
    rintro (rfl | ⟨a, rfl⟩) <;> exact sameErrors_of_not_checksFail h nofun id
  case absorbing =>
    rintro (rfl | ⟨k, rfl, hk⟩) hphase
    · exact sameErrors_of_not_checksFail h nofun (not_not_intro hphase)
    · exact sameErrors_of_not_checksFail h nofun (not_or.2 ⟨hk, not_not_intro hphase⟩)
  case finalizing =>
    rintro (rfl | rfl) hready <;> exact sameErrors_of_not_checksFail h nofun (not_not_intro hready)

end Sys2Proof.Machine
end

section
/-!
PROOFS. What an access or a command leaves of the session: writes to other registers than `CMD`, and the commands outside
the session (70_reset_and_hazards.md rules R105, R106).
-/

namespace Sys2Proof.Machine

open Sys2Proof.Safety

/-! ### Writes to a register other than `CMD` -/

/-- The only thing a served write to another offset than that of `CMD` does is its store. -/
theorem eq_storeReg_of_step_write {s t : State} {off : Nat} {v : Word} {rest : List PortEvent}
    (hport : s.port = .write off 4 v :: rest) (hoff : off ≠ 0) (hstep : step s = .next t) :
    t = storeReg (regAt off) v (s.setPort rest) := by
  obtain ⟨hreset, -, haligned, hwindow, -⟩ := serveAccess_next.1 ((step_cons hport).symm.trans hstep)
  rw [step_store hport hreset haligned hwindow hoff] at hstep
  exact (Host.Outcome.next.inj hstep).symm

theorem sameSession_storeReg (r : Reg) (v : Word) (s : State) : SameSession s (storeReg r v s) :=
  ⟨storeReg_S r v s, storeReg_n r v s, storeReg_cnt r v s, storeReg_phase r v s, storeReg_round r v s⟩

theorem sameErrors_storeReg (r : Reg) (v : Word) (s : State) : SameErrors s (storeReg r v s) :=
  ⟨storeReg_err r v s, storeReg_errovf r v s, storeReg_errcode r v s, storeReg_errcmd r v s, storeReg_errinfo r v s⟩

theorem storeReg_cmd_of_ne_CMD {r : Reg} (h : r ≠ .CMD) (v : Word) (s : State) : (storeReg r v s).cmd = s.cmd := by
  cases r with
  | CMD => exact absurd rfl h
  | _ => rfl

/-- Settles O50: the step is a store, and no store but that to `CMD` writes one of these registers. -/
theorem operandWritesLeaveTheSession : Obligations.OperandWritesLeaveTheSession := by
  intro s t off v rest hport hoff hstep
  rw [eq_storeReg_of_step_write hport hoff hstep]
  have hreg : regAt off ≠ .CMD := mt regAt_eq_CMD.1 hoff
  exact ⟨sameSession_storeReg _ v (s.setPort rest), sameErrors_storeReg _ v (s.setPort rest),
    storeReg_result _ v (s.setPort rest), storeReg_cmd_of_ne_CMD hreg v (s.setPort rest)⟩

/-! ### Commands outside the session -/

/-- `s` with the session of `u` in the place of its own. -/
def State.withSessionOf (s u : State) : State :=
  { s with S := u.S, n := u.n, cnt := u.cnt, phase := u.phase, round := u.round }

theorem State.withSessionOf_self (s : State) : s.withSessionOf s = s := rfl

theorem State.sameSession_withSessionOf (s u : State) : SameSession u (s.withSessionOf u) := ⟨rfl, rfl, rfl, rfl, rfl⟩

/-- Recording an error does not look at the session. -/
theorem recordError_withSessionOf (e : ErrCode) (c info : Word) (s u : State) :
    recordError e c info (s.withSessionOf u) = (recordError e c info s).withSessionOf u := by
  cases h : s.err with
  | true => rw [recordError_of_err h, recordError_of_err (s := s.withSessionOf u) h]; rfl
  | false => rw [recordError_of_not_err h, recordError_of_not_err (s := s.withSessionOf u) h]; rfl

/-- The checks of an isolated command read operands alone. -/
theorem commandCheck_withSessionOf {i : Instr} (hi : isolated i = true) (s u : State) :
    commandCheck i (s.withSessionOf u) = commandCheck i s := by
  cases i with
  | nop | rotl _ | hamhex | hambin | clrerr => rfl
  | init | absorb | tail _ | fround | final => cases hi

/-- The effect of an isolated command neither reads nor writes the session. -/
theorem commandEffect_withSessionOf {i : Instr} (hi : isolated i = true) (s u : State) :
    commandEffect i (s.withSessionOf u) = (commandEffect i s).withSessionOf u := by
  cases i with
  | nop | rotl _ | hamhex | hambin | clrerr => rfl
  | init | absorb | tail _ | fround | final => cases hi

/-- An isolated command does the same to everything else whatever session stands in the state, and keeps that session. -/
theorem exec_withSessionOf {i : Instr} {s t : State} (hi : isolated i = true) (h : exec i s = .next t) (u : State) :
    exec i (s.withSessionOf u) = .next (t.withSessionOf u) := by
  have hcheck := commandCheck_withSessionOf hi s u
  obtain ⟨hnone, rfl⟩ | ⟨e, info, hsome, rfl⟩ := exec_next_cases h
  · rw [exec_of_check_none (hcheck.trans hnone), commandEffect_withSessionOf hi]
  · rw [exec_of_check_some (hcheck.trans hsome), recordError_withSessionOf]
    rfl

/-- An isolated command keeps the session: run with its own session put in place, it leaves that one. -/
theorem sameSession_of_isolated {i : Instr} {s t : State} (hi : isolated i = true) (h : exec i s = .next t) :
    SameSession s t := by
  have hself := exec_withSessionOf hi h s
  rw [s.withSessionOf_self, h] at hself
  rw [Host.Outcome.next.inj hself]
  exact t.sameSession_withSessionOf s

/-- Settles O51: any other session is that of some state `u`, put in place of the session of `s`. -/
theorem isolatedCommandsIgnoreTheSession : Obligations.IsolatedCommandsIgnoreTheSession := by
  intro i s t hi h
  refine ⟨sameSession_of_isolated hi h, fun S n cnt phase round => ?_⟩
  exact exec_withSessionOf hi h { s with S := S, n := n, cnt := cnt, phase := phase, round := round }

end Sys2Proof.Machine
end

section
/-!
PROOFS. The state after reset: what its registers read as, and which commands it accepts (70_reset_and_hazards.md rules
R101, R102).
-/

namespace Sys2Proof.Machine

open Sys2Proof.Safety

/-! ### The registers after reset -/

/-- Every character of the hex view of the zero state is `0`. -/
theorem readReg_HEX_reset : ∀ j : Fin 8, readReg (.HEX j) State.reset = 0x30303030 := by decide

theorem readReg_STATE_reset : ∀ i : Fin 4, readReg (.STATE i) State.reset = 0 := by decide

/-- A word of the empty storage reads 0. -/
theorem memReadWord_nil (off : Nat) : memReadWord [] off = 0 := by
  simp only [memReadWord, memRead_nil]
  decide

theorem readReg_reset_of_ne_HEX {r : Reg} (h : ∀ j, r ≠ .HEX j) : readReg r State.reset = 0 := by
  cases r with
  | HEX j => exact absurd rfl (h j)
  | STATE i => exact readReg_STATE_reset i
  | HBUFA j | HBUFB j => exact memReadWord_nil _
  | _ => rfl

theorem regAt_hexView {off : Nat} (hlo : 0x060 ≤ off) (hhi : off < 0x080) :
    regAt off = .HEX (Fin.ofNat 8 ((off - 0x060) / 4)) := by
  simp (disch := omega) only [regAt, if_pos, if_neg]

/-- The control registers are none of the hex view. -/
theorem controlRegAt_ne_HEX (off : Nat) (j : Fin 8) : controlRegAt off ≠ .HEX j := by
  unfold controlRegAt
  split <;> exact Reg.noConfusion

/-- `HEX0` to `HEX7` stand at no offset outside their range. -/
theorem regAt_ne_HEX {off : Nat} (h : ¬ (0x060 ≤ off ∧ off < 0x080)) (j : Fin 8) : regAt off ≠ .HEX j := by
  unfold regAt
  split_ifs
  · exact controlRegAt_ne_HEX off j
  · nofun
  · nofun
  · omega
  all_goals nofun

theorem readReg_regAt_reset (off : Nat) :
    readReg (regAt off) State.reset = if 0x060 ≤ off ∧ off < 0x080 then 0x30303030 else 0 := by
  split
  case isTrue h =>
    obtain ⟨hlo, hhi⟩ := h
    rw [regAt_hexView hlo hhi, readReg_HEX_reset]
  case isFalse h => exact readReg_reset_of_ne_HEX (regAt_ne_HEX h)

/-- Settles O47: a legal read returns the register at its offset, and the other clauses are fields of `State.reset`. -/
theorem resetReads : Obligations.ResetReads := by
  refine ⟨fun off haligned hwindow => ?_, rfl, rfl, rfl, rfl, rfl, rfl, memRead_nil⟩
  rw [← readReg_regAt_reset off]
  exact readsAs_readReg haligned hwindow State.reset

/-! ### The commands after reset -/

/-- Both operands are empty after reset, so every character is valid. -/
theorem hexReady_reset : HexReady State.reset :=
  ⟨⟨Nat.zero_le 64, rfl⟩, ⟨rfl, nofun⟩, ⟨rfl, nofun⟩⟩

/-- The commands that need no open session pass their checks after reset. -/
theorem not_checksFail_reset {i : Instr} (hi : i = .init ∨ isolated i = true) : ¬ ChecksFail i State.reset := by
  cases i with
  | nop | init | rotl _ | clrerr => exact id
  | hamhex => exact not_not_intro hexReady_reset
  | hambin => exact not_not_intro hexReady_reset.1
  | absorb | tail _ | fround | final => simp [isolated] at hi

/-- The error record is empty after reset, so `CLRERR` too leaves it as it is. -/
theorem sameErrors_commandEffect_reset (i : Instr) : SameErrors State.reset (commandEffect i State.reset) := by
  by_cases hi : i = .clrerr
  · exact hi ▸ ⟨rfl, rfl, rfl, rfl, rfl⟩
  · exact sameErrors_commandEffect hi State.reset

/-- Settles O49: in `IDLE` the session-order check of the four session commands fails, and the checks of the others pass. -/
theorem commandsAcceptedAfterReset : Obligations.CommandsAcceptedAfterReset := by
  have habsorb := absorbCheck_of_ne_absorb (s := State.reset) nofun
  have hfinalize := finalizeCheck_of_idle_or_done (s := State.reset) (.inl rfl)
  refine ⟨rfl, raisesSequence_of_check_some habsorb, fun k hk => ?tail, raisesSequence_of_check_some hfinalize,
    raisesSequence_of_check_some hfinalize, fun i hi => ?accepted⟩
  case tail => exact raisesSequence_of_check_some ((if_neg hk).trans habsorb)
  case accepted =>
    exact ⟨_, exec_of_check_none (commandCheck_eq_none.2 (not_checksFail_reset hi)), sameErrors_commandEffect_reset i⟩

end Sys2Proof.Machine
end

section
/-!
PROOFS. Decoding and encoding undo each other (30_encoding.md rules R45 to R50).
-/

namespace Sys2Proof

/-- Settles O1: the inversion of `decode` at the word of the command. -/
theorem decodeInvertsEncode : Obligations.DecodeInvertsEncode :=
  fun _ hwf => decode_eq_ok_iff.2 ⟨hwf, rfl⟩

/-- Settles O2: the inversion of `decode`, read from the word. -/
theorem decodedWordIsItsEncoding : Obligations.DecodedWordIsItsEncoding := by
  intro c i h
  obtain ⟨hwf, hword⟩ := decode_eq_ok_iff.1 h
  exact ⟨hwf, hword.symm⟩

/-- Settles O5: each word that decodes is the encoding of its command, and each reserved word breaks one condition of rule
R48. -/
theorem sampleWordsDecode : Obligations.SampleWordsDecode := by
  have decodes {c : Word} {i : Instr} (hwf : i.wellFormed = true) (hword : c = encode i) : decode c = .ok i :=
    decode_eq_ok_iff.2 ⟨hwf, hword⟩
  exact ⟨decodes rfl rfl, decodes rfl rfl, decodes rfl rfl, decodes rfl rfl, decodes rfl rfl, decodes rfl rfl,
    decodes rfl rfl, decodes rfl rfl, decodes rfl rfl, decodes rfl rfl, rfl, rfl, rfl⟩

end Sys2Proof
end

section
/-!
PROOFS. What a command writes: the registers it leaves alone, and what it leaves of the session (10_state.md rules R13 to
R25).
-/

namespace Sys2Proof.Machine

open Sys2Proof.Safety

/-! ### The registers no command writes -/

/-- `t` holds what no command writes as `s` does: the host's operands with the buffers as data, `CMD`, the reset input and
the two sides of the port. -/
structure SameHostSide (s t : State) : Prop where
  len : t.len = s.len
  din0 : t.din0 = s.din0
  din1 : t.din1 = s.din1
  opx : t.opx = s.opx
  hlena : t.hlena = s.hlena
  hlenb : t.hlenb = s.hlenb
  hbuf : t.hbuf = s.hbuf
  cmd : t.cmd = s.cmd
  inReset : t.inReset = s.inReset
  port : t.port = s.port
  readData : t.readData = s.readData

theorem sameHostSide_recordError (e : ErrCode) (c info : Word) (s : State) : SameHostSide s (recordError e c info s) := by
  constructor <;> simp only [recordError_len, recordError_din0, recordError_din1, recordError_opx, recordError_hlena,
    recordError_hlenb, recordError_hbuf, recordError_cmd, recordError_inReset, recordError_port, recordError_readData]

theorem sameHostSide_commandEffect (i : Instr) (s : State) : SameHostSide s (commandEffect i s) := by
  cases i <;> exact ⟨rfl, rfl, rfl, rfl, rfl, rfl, rfl, rfl, rfl, rfl, rfl⟩

/-- No command writes an operand, `CMD`, the reset input or the port. -/
theorem sameHostSide_of_exec {i : Instr} {s t : State} (h : exec i s = .next t) : SameHostSide s t := by
  obtain ⟨-, rfl⟩ | ⟨e, info, -, rfl⟩ := exec_next_cases h
  · exact sameHostSide_commandEffect i s
  · exact sameHostSide_recordError e s.cmd info s

theorem SameHostSide.sameOperands {s t : State} (h : SameHostSide s t) : SameOperands s t :=
  ⟨h.len, h.din0, h.din1, h.opx, h.hlena, h.hlenb, fun _ => by rw [h.hbuf]⟩

/-! ### The session -/

theorem sameSession_recordError (e : ErrCode) (c info : Word) (s : State) : SameSession s (recordError e c info s) :=
  ⟨recordError_S s e c info, recordError_n s e c info, recordError_cnt s e c info, recordError_phase s e c info,
    recordError_round s e c info⟩

/-- Every command answers a next state. -/
theorem exists_exec_eq_next (i : Instr) (s : State) : ∃ t, exec i s = .next t := by
  match hcheck : commandCheck i s with
  | none => exact ⟨_, exec_of_check_none hcheck⟩
  | some (e, info) => exact ⟨_, exec_of_check_some hcheck⟩

theorem commandEffect_n_of_ne_init {i : Instr} (hi : i ≠ .init) (s : State) : (commandEffect i s).n = s.n := by
  cases i with
  | init => exact absurd rfl hi
  | _ => rfl

/-- Only `INIT` writes `N`. -/
theorem exec_n_of_ne_init {i : Instr} {s t : State} (h : exec i s = .next t) (hi : i ≠ .init) : t.n = s.n := by
  obtain ⟨-, rfl⟩ | ⟨e, info, -, rfl⟩ := exec_next_cases h
  · exact commandEffect_n_of_ne_init hi s
  · exact recordError_n s e s.cmd info

theorem commandEffect_result_eq_or (i : Instr) (s : State) :
    (commandEffect i s).result = s.result ∨ i = .hamhex ∨ i = .hambin ∨ ∃ a, i = .rotl a := by
  cases i with
  | rotl a => exact .inr (.inr (.inr ⟨a, rfl⟩))
  | hamhex => exact .inr (.inl rfl)
  | hambin => exact .inr (.inr (.inl rfl))
  | _ => exact .inl rfl

/-- Only `ROTL` and the comparator write `RESULT`. -/
theorem exec_result_eq_or {i : Instr} {s t : State} (h : exec i s = .next t) :
    t.result = s.result ∨ i = .hamhex ∨ i = .hambin ∨ ∃ a, i = .rotl a := by
  obtain ⟨-, rfl⟩ | ⟨e, info, -, rfl⟩ := exec_next_cases h
  · exact commandEffect_result_eq_or i s
  · exact .inl (recordError_result s e s.cmd info)

/-- Settles O16: a command records an error, which writes the error fields alone, or has its effect. -/
theorem whatCommandsMayWrite : Obligations.WhatCommandsMayWrite := by
  intro i s
  obtain ⟨t, h⟩ := exists_exec_eq_next i s
  have hside := sameHostSide_of_exec h
  refine ⟨t, h, hside.sameOperands, hside.cmd, hside.inReset, hside.port, hside.readData, fun hn => ?length,
    (exec_result_eq_or h).resolve_left, fun hsession => ?session⟩
  case length =>
    by_contra hi
    exact hn (exec_n_of_ne_init h hi)
  case session => exact Bool.eq_false_iff.2 fun hi => hsession (sameSession_of_isolated hi h)

/-! ### The session after a digest command -/

/-- The checks of a digest command read the session alone. -/
theorem commandCheck_eq_of_sameSession {i : Instr} (hi : isolated i = false) {s s' : State} (h : SameSession s s') :
    commandCheck i s' = commandCheck i s := by
  obtain ⟨-, hn, hcnt, hphase, hround⟩ := h
  have hbits : sessionBits s' = sessionBits s := by rw [sessionBits, hround, hphase, sessionBits]
  cases i with
  | init => rfl
  | absorb => simp only [commandCheck, absorbCheck, hphase, hbits]
  | tail k => simp only [commandCheck, tailCheck, absorbCheck, hphase, hbits]
  | fround | final => simp only [commandCheck, finalizeCheck, hphase, hbits, hcnt, hn]
  | nop | rotl _ | hamhex | hambin | clrerr => cases hi

/-- The effect of a digest command on the session reads the session, `LEN` and the block alone. -/
theorem sameSession_commandEffect {i : Instr} (hi : isolated i = false) {s s' : State} (h : SameSession s s')
    (hlen : s'.len = s.len) (hdin0 : s'.din0 = s.din0) (hdin1 : s'.din1 = s.din1) :
    SameSession (commandEffect i s) (commandEffect i s') := by
  obtain ⟨hS, hn, hcnt, hphase, hround⟩ := h
  cases i with
  | nop | rotl _ | hamhex | hambin | clrerr => cases hi
  | _ => simp [SameSession, commandEffect, hS, hn, hcnt, hphase, hround, hlen, hdin0, hdin1]

/-- Settles O52: in both states the same check fails, and then the session is kept, or the checks pass and the effects
agree. -/
theorem sessionDependsOnItsOperandsAlone : Obligations.SessionDependsOnItsOperandsAlone := by
  intro i s s' t hi hsession hlen hdin0 hdin1 h
  have hcheck := commandCheck_eq_of_sameSession hi hsession
  obtain ⟨hnone, rfl⟩ | ⟨e, info, hsome, rfl⟩ := exec_next_cases h
  · exact ⟨_, exec_of_check_none (hcheck.trans hnone), sameSession_commandEffect hi hsession hlen hdin0 hdin1⟩
  · refine ⟨_, exec_of_check_some (hcheck.trans hsome), ?_⟩
    simpa [SameSession] using hsession

/-! ### Phases -/

/-- No command's effect writes `IDLE` to a session that is open. -/
theorem commandEffect_phase_ne_idle (i : Instr) {s : State} (h : s.phase ≠ .idle) : (commandEffect i s).phase ≠ .idle := by
  cases i with
  | init | tail _ | final => exact Phase.noConfusion
  | fround =>
    rw [commandEffect, State.setSession_phase]
    split <;> exact Phase.noConfusion
  | _ => exact h

theorem exec_phase_ne_idle {i : Instr} {s t : State} (h : exec i s = .next t) (hphase : s.phase ≠ .idle) :
    t.phase ≠ .idle := by
  obtain ⟨-, rfl⟩ | ⟨e, info, -, rfl⟩ := exec_next_cases h
  · exact commandEffect_phase_ne_idle i hphase
  · exact (recordError_phase s e s.cmd info).symm ▸ hphase

/-- In `DONE` the session checks of the other digest commands fail, so that only `INIT` changes `S` (rule R71). -/
theorem exec_S_of_done {i : Instr} {s t : State} (h : exec i s = .next t) (hphase : s.phase = .done) (hi : i ≠ .init) :
    t.S = s.S := by
  obtain ⟨hpass, rfl⟩ | ⟨e, info, -, rfl⟩ := exec_next_cases h
  · have hpass := commandCheck_eq_none.1 hpass
    cases i with
    | init => exact absurd rfl hi
    | absorb | tail _ | fround | final => simp [ChecksFail, FinalizeReady, hphase] at hpass
    | _ => rfl
  · exact recordError_S s e s.cmd info

end Sys2Proof.Machine
end

section
/-!
PROOFS. The step: which deliveries it answers, the reset line, and the registers that only a command or reset changes
(20_memory.md rule R33; 70_reset_and_hazards.md rules R100, R104).
-/

namespace Sys2Proof.Machine

open Sys2Proof.Safety

/-! ### The commands at the port -/

/-- Settles O6: the step on a write to `CMD` runs the word, and a word that decodes is run as its command. -/
theorem stepRunsTheDecodedCommand : Obligations.StepRunsTheDecodedCommand := by
  intro s c i rest hreset hport hdecode
  rw [step_commandWrite hport hreset, runCommand, hdecode]
  rfl

/-- Settles O7: an empty port has no event to serve. -/
theorem coreWaitsForTheHost : Obligations.CoreWaitsForTheHost := fun _ hport => step_nil hport

/-! ### The deliveries that stop the step -/

theorem exists_runCommand_eq_next (c : Word) (s : State) : ∃ t, runCommand c s = .next t := by
  obtain ⟨i, -, hrun⟩ | ⟨-, -, hrun⟩ := runCommand_cases c s
  · exact (exists_exec_eq_next i s).imp fun _ h => hrun.trans h
  · exact ⟨_, hrun⟩

theorem exists_writeReg_eq_next (r : Reg) (v : Word) (s : State) : ∃ t, writeReg r v s = .next t := by
  unfold writeReg
  split
  · exact exists_runCommand_eq_next v (storeReg r v s)
  · exact ⟨_, rfl⟩

/-- What becomes of an access whose effect would be `o`: the clauses of rules R33 and R100, in the model's order (log
entries 6, 7). -/
theorem serveAccess_clauses (off size : Nat) (s : State) {o : Host.Outcome State Fault Refusal} (ho : ∃ t, o = .next t) :
    (s.inReset = true → serveAccess off size s o = .fault .accessInReset) ∧
      (s.inReset = false → size ≠ 4 → serveAccess off size s o = .refused .accessSize) ∧
      (s.inReset = false → size = 4 → off % 4 ≠ 0 → serveAccess off size s o = .refused .misaligned) ∧
      (s.inReset = false → size = 4 → off % 4 = 0 → 0x200 ≤ off → serveAccess off size s o = .refused .outsideWindow) ∧
      (s.inReset = false → size = 4 → off % 4 = 0 → off < 0x200 → ∃ t, serveAccess off size s o = .next t) := by
  refine ⟨fun hreset => if_pos hreset, fun hreset hsize => ?size, fun hreset hsize halign => ?misaligned,
    fun hreset hsize halign hwindow => ?outside, fun hreset hsize halign hwindow => ?served⟩
  case size => simp [serveAccess, hreset, hsize]
  case misaligned => simp [serveAccess, hreset, hsize, halign]
  case outside => simp [serveAccess, hreset, hsize, halign, Config.windowBytes, hwindow]
  case served =>
    subst hsize
    rwa [serveAccess_of_legal hreset halign hwindow]

/-- Settles O8: an access is served by the clauses of `serveAccess`, and what it then does is answered by a next state. -/
theorem onlyUndefinedAccessesStop : Obligations.OnlyUndefinedAccessesStop := by
  intro s
  split
  case h_1 hport => exact ⟨s, step_nil hport⟩
  case h_2 asserted rest hport => exact ⟨_, step_cons hport⟩
  case h_3 off size rest hport =>
    rw [step_cons hport]
    exact serveAccess_clauses off size (s.setPort rest) ⟨_, rfl⟩
  case h_4 off size v rest hport =>
    rw [step_cons hport]
    exact serveAccess_clauses off size (s.setPort rest) (exists_writeReg_eq_next (regAt off) v (s.setPort rest))

/-! ### The reset line -/

theorem driveReset_of_not_inReset {s : State} (h : s.inReset = false) : driveReset false s = s := by
  simp [driveReset, h]

theorem driveReset_of_inReset {s : State} (h : s.inReset = true) : driveReset false s = s.toReset := by
  simp [driveReset, h]

/-- What driving the reset input can do: assert it, release it, or leave the state as it is. -/
theorem driveReset_cases (asserted : Bool) (s : State) :
    (asserted = true ∧ driveReset asserted s = s.setResetLine true) ∨
      (asserted = false ∧ s.inReset = true ∧ driveReset asserted s = s.toReset) ∨
      (asserted = false ∧ s.inReset = false ∧ driveReset asserted s = s) := by
  cases asserted with
  | true => exact .inl ⟨rfl, rfl⟩
  | false =>
    cases hreset : s.inReset with
    | true => exact .inr (.inl ⟨rfl, rfl, driveReset_of_inReset hreset⟩)
    | false => exact .inr (.inr ⟨rfl, rfl, driveReset_of_not_inReset hreset⟩)

/-- Settles O48: the event is served by driving the line, and an access finds it asserted. -/
theorem releasingResetRestoresEveryRegister : Obligations.ReleasingResetRestoresEveryRegister := by
  refine fun s rest => ⟨fun hport => ?asserted, fun hreset hport => ?released, fun hreset off size v hport => ?access⟩
  case asserted => rw [step_cons hport]; rfl
  case released =>
    rw [step_cons hport, serveEvent, driveReset_of_inReset (s := s.setPort rest) hreset]
    rfl
  case access => obtain hport | hport := hport <;> rw [step_cons hport] <;> exact if_pos hreset

/-! ### What a step changes of the session -/

/-- A step that changes the session ran a command, or served the release of an asserted reset. -/
theorem sameSession_or_of_step {s t : State} (h : step s = .next t) :
    SameSession s t ∨
      (∃ c i rest, s.port = commandWrite c :: rest ∧ decode c = .ok i ∧
        exec i ((s.setPort rest).setCommand c) = .next t) ∨
      (s.inReset = true ∧ ∃ rest, s.port = .resetLine false :: rest ∧ t = (s.setPort rest).toReset) := by
  cases step_next_cases h with
  | idle | read => exact .inl ⟨rfl, rfl, rfl, rfl, rfl⟩
  | @store off v rest => exact .inl (sameSession_storeReg (regAt off) v (s.setPort rest))
  | command hport _ hdecode hexec => exact .inr (.inl ⟨_, _, _, hport, hdecode, hexec⟩)
  | @illegal c _ rest => exact .inl (sameSession_recordError .illegalCommand c 0 ((s.setPort rest).setCommand c))
  | @reset b rest hport =>
    obtain ⟨rfl, hdrive⟩ | ⟨rfl, hreset, hdrive⟩ | ⟨rfl, -, hdrive⟩ := driveReset_cases b (s.setPort rest) <;> rw [hdrive]
    · exact .inl ⟨rfl, rfl, rfl, rfl, rfl⟩
    · exact .inr (.inr ⟨hreset, rest, hport, rfl⟩)
    · exact .inl ⟨rfl, rfl, rfl, rfl, rfl⟩

/-- Settles O17: no command writes `IDLE` to an open session. -/
theorem onlyResetReturnsToIdle : Obligations.OnlyResetReturnsToIdle := by
  intro s t h hphase hidle
  obtain ⟨-, -, -, hkept, -⟩ | ⟨c, i, rest, -, -, hexec⟩ | ⟨hreset, rest, hport, -⟩ := sameSession_or_of_step h
  · exact absurd (hkept.symm.trans hidle) hphase
  · exact absurd hidle (exec_phase_ne_idle hexec hphase)
  · exact ⟨hreset, rest, hport⟩

/-- Settles O32: of the commands only `INIT` changes `S` in `DONE`. -/
theorem digestIsFixedWhenDone : Obligations.DigestIsFixedWhenDone := by
  intro s t h hphase hchanged
  obtain ⟨hkept, -⟩ | ⟨c, i, rest, hport, hdecode, hexec⟩ | ⟨hreset, rest, hport, -⟩ := sameSession_or_of_step h
  · exact absurd hkept hchanged
  · obtain rfl : i = .init := by
      by_contra hi
      exact hchanged (exec_S_of_done (s := (s.setPort rest).setCommand c) hexec hphase hi)
    exact .inl ⟨c, rest, hport, hdecode⟩
  · exact .inr ⟨hreset, rest, hport⟩

end Sys2Proof.Machine
end

section
/-!
PROOFS. The invariants: the canonical buffers, the session and the error record hold after reset, and every step keeps them
(10_state.md; 60_exceptions.md rules R88, R89).
-/

namespace Sys2Proof.Machine

open Sys2Proof.Safety

/-! ### The canonical buffers -/

theorem memoryInv_reset : MemoryInv State.reset := ⟨.nil, nofun⟩

/-- Settles O53: only a store of the host writes the buffers, and it keeps the form; reset empties them. -/
theorem stepKeepsMemoryCanonical : Obligations.StepKeepsMemoryCanonical := by
  intro s t hinv h
  cases step_next_cases h with
  | idle | read => exact hinv
  | @store off v rest => exact storeReg_wf (regAt off) v (s.setPort rest) hinv
  | command _ _ _ hexec =>
    unfold MemoryInv
    rw [(sameHostSide_of_exec hexec).hbuf]
    exact hinv
  | illegal =>
    unfold MemoryInv
    rw [recordError_hbuf]
    exact hinv
  | @reset b rest =>
    obtain ⟨-, hdrive⟩ | ⟨-, -, hdrive⟩ | ⟨-, -, hdrive⟩ := driveReset_cases b (s.setPort rest) <;> rw [hdrive]
    · exact hinv
    · exact memoryInv_reset
    · exact hinv

/-! ### The session -/

theorem sessionInv_reset : SessionInv State.reset := ⟨rfl, rfl, rfl, rfl⟩

theorem sessionInv_of_sameSession {s t : State} (hinv : SessionInv s) (h : SameSession s t) : SessionInv t := by
  obtain ⟨hS, hn, hcnt, hphase, hround⟩ := h
  simpa only [SessionInv, hS, hn, hcnt, hphase, hround] using hinv

/-- The clause of the invariant for a phase, of a state in that phase. -/
theorem sessionInv_in_absorb {s : State} (hinv : SessionInv s) (h : s.phase = .absorb) :
    s.round = 0 ∧ s.cnt.toNat % 8 = 0 := by simpa only [SessionInv, h] using hinv

theorem sessionInv_in_tailed {s : State} (hinv : SessionInv s) (h : s.phase = .tailed) :
    s.round = 0 ∧ s.cnt.toNat % 8 ≠ 0 := by simpa only [SessionInv, h] using hinv

theorem sessionInv_in_finalizing {s : State} (hinv : SessionInv s) (h : s.phase = .finalizing) :
    s.cnt = s.n ∧ 1 ≤ s.round.toNat ∧ s.round.toNat ≤ 5 := by simpa only [SessionInv, h] using hinv

/-- Where finalization may run, the byte count is right and a round is left to run. -/
theorem sessionInv_of_finalizeReady {s : State} (hinv : SessionInv s) (h : FinalizeReady s) :
    s.cnt = s.n ∧ s.round.toNat ≤ 5 := by
  obtain hphase | ⟨hphase | hphase, hcnt⟩ := h
  · obtain ⟨hcnt, -, hround⟩ := sessionInv_in_finalizing hinv hphase
    exact ⟨hcnt, hround⟩
  · exact ⟨hcnt, by rw [(sessionInv_in_absorb hinv hphase).1]; decide⟩
  · exact ⟨hcnt, by rw [(sessionInv_in_tailed hinv hphase).1]; decide⟩

/-- A full block keeps `CNT` a multiple of 8. -/
theorem sessionInv_effect_absorb {s : State} (hinv : SessionInv s) (h : s.phase = .absorb) :
    SessionInv (commandEffect .absorb s) := by
  obtain ⟨hround, hcnt⟩ := sessionInv_in_absorb hinv h
  simp only [SessionInv, commandEffect, State.setSession_phase, State.setSession_round, State.setSession_cnt, h]
  exact ⟨hround, by bv_omega⟩

/-- A tail of 1 to 7 bytes takes `CNT` off the multiples of 8. -/
theorem sessionInv_effect_tail {s : State} {k : BitVec 3} (hinv : SessionInv s) (hk : k ≠ 0) (h : s.phase = .absorb) :
    SessionInv (commandEffect (.tail k) s) := by
  obtain ⟨hround, hcnt⟩ := sessionInv_in_absorb hinv h
  exact ⟨hround, by simp only [commandEffect, State.setSession_cnt]; bv_omega⟩

/-- After round 5 six rounds are done, and after an earlier round 1 to 5. -/
theorem sessionInv_effect_fround {s : State} (hinv : SessionInv s) (h : FinalizeReady s) :
    SessionInv (commandEffect .fround s) := by
  obtain ⟨hcnt, hround⟩ := sessionInv_of_finalizeReady hinv h
  simp only [SessionInv, commandEffect, State.setSession_phase, State.setSession_round, State.setSession_cnt,
    State.setSession_n]
  by_cases hlast : s.round + 1 = 6
  · simp only [hlast, if_true]
    exact ⟨hcnt, trivial⟩
  · simp only [hlast, if_false]
    exact ⟨hcnt, by bv_omega, by bv_omega⟩

/-- Every command keeps the session invariant. -/
theorem sessionInv_of_exec {i : Instr} {s t : State} (hinv : SessionInv s) (h : exec i s = .next t) : SessionInv t := by
  obtain ⟨hpass, rfl⟩ | ⟨e, info, -, rfl⟩ := exec_next_cases h
  · have hpass := commandCheck_eq_none.1 hpass
    cases i with
    | init => exact ⟨rfl, rfl⟩
    | absorb => exact sessionInv_effect_absorb hinv (not_not.1 hpass)
    | tail k =>
      obtain ⟨hk, hphase⟩ := not_or.1 hpass
      exact sessionInv_effect_tail hinv hk (not_not.1 hphase)
    | fround => exact sessionInv_effect_fround hinv (not_not.1 hpass)
    | final => exact ⟨(sessionInv_of_finalizeReady hinv (not_not.1 hpass)).1, rfl⟩
    | nop | rotl _ | hamhex | hambin | clrerr => exact sessionInv_of_sameSession hinv (sameSession_of_isolated rfl h)
  · exact sessionInv_of_sameSession hinv (sameSession_recordError e s.cmd info s)

/-- Settles O54: a step leaves the session as it is, runs a command, or resets it. -/
theorem stepKeepsSessionOrder : Obligations.StepKeepsSessionOrder := by
  intro s t hinv h
  obtain hkept | ⟨c, i, rest, -, -, hexec⟩ | ⟨-, rest, -, rfl⟩ := sameSession_or_of_step h
  · exact sessionInv_of_sameSession hinv hkept
  · exact sessionInv_of_exec (s := (s.setPort rest).setCommand c) hinv hexec
  · exact sessionInv_reset

/-! ### The error record -/

theorem errorInv_reset : ErrorInv State.reset := ⟨rfl, rfl, rfl, rfl⟩

theorem errorInv_of_sameErrors {s t : State} (hinv : ErrorInv s) (h : SameErrors s t) : ErrorInv t := by
  obtain ⟨herr, hovf, hcode, hcmd, hinfo⟩ := h
  simpa only [ErrorInv, herr, hovf, hcode, hcmd, hinfo] using hinv

/-- The first error records its row, and a later one leaves the row of the first. -/
theorem errorInv_recordError {s : State} (hinv : ErrorInv s) {e : ErrCode} {c info : Word} (hrow : ErrorRow e c info) :
    ErrorInv (recordError e c info s) := by
  unfold ErrorInv at hinv ⊢
  rw [recordError_err, if_pos rfl, recordError_errcode, recordError_errcmd, recordError_errinfo]
  cases herr : s.err with
  | true => rw [herr] at hinv; exact hinv
  | false => exact hrow

/-- Bit 3 of `{ROUND, 1'b0, PHASE}` is the constant 0 between the two fields. -/
theorem sessionBits_bit3 (s : State) : (sessionBits s).getLsbD 3 = false := by
  change ((s.round ++ 0#1 : BitVec (3 + 1)) ++ s.phase.code : BitVec (3 + 1 + 3)).getLsbD 3 = false
  rw [BitVec.getLsbD_append, if_neg (by decide), BitVec.getLsbD_append, if_pos (by decide), BitVec.getLsbD_zero]

/-- What a check reports on a core with the word `c` in `CMD`, if anything, fits the row of its code (rule R89). -/
def FitsRow (c : Word) (check : Option (ErrCode × Word)) : Prop := ∀ r ∈ check, ErrorRow r.1 c r.2

theorem fitsRow_none (c : Word) : FitsRow c none := fun _ h => nomatch h

theorem fitsRow_some {c info : Word} {e : ErrCode} (h : ErrorRow e c info) : FitsRow c (some (e, info)) :=
  fun _ hr => Option.some.inj hr ▸ h

/-- The second check runs only where the first passes. -/
theorem FitsRow.or {c : Word} {first second : Option (ErrCode × Word)} (hfirst : FitsRow c first)
    (hsecond : first = none → FitsRow c second) : FitsRow c (first.or second) := by
  cases first with
  | none => exact hsecond rfl
  | some _ => exact hfirst

/-- `SEQUENCE` is raised by the four commands of the session that have a phase of their own. -/
theorem errorRow_sequence {c : Word} {i : Instr} (hdecode : decode c = .ok i)
    (hop : i.opcode.toNat ∈ [0x02, 0x03, 0x04, 0x05]) (s : State) : ErrorRow .sequence c ((sessionBits s).setWidth 32) := by
  obtain ⟨-, -, hopField, -⟩ := decode_eq_ok_iff_fields.1 hdecode
  refine ⟨?opcode, exists_decode_iff_legal.1 ⟨i, hdecode⟩, ?range, ?bit3⟩
  case opcode => rwa [← toNat_opField, hopField]
  case range =>
    rw [BitVec.toNat_setWidth]
    have := (sessionBits s).isLt
    omega
  case bit3 => rw [BitVec.getLsbD_setWidth, sessionBits_bit3, Bool.and_false]

theorem fitsRow_absorbCheck {c : Word} {s : State} (hrow : ErrorRow .sequence c ((sessionBits s).setWidth 32)) :
    FitsRow c (absorbCheck s) := by
  unfold absorbCheck
  split
  · exact fitsRow_none c
  · exact fitsRow_some hrow

theorem fitsRow_finalizeCheck {c : Word} {s : State} (hrow : ErrorRow .sequence c ((sessionBits s).setWidth 32))
    (hc : c = 0x04 ∨ c = 0x05) : FitsRow c (finalizeCheck s) := by
  unfold finalizeCheck
  cases s.phase with
  | idle | done => exact fitsRow_some hrow
  | absorb | tailed =>
    dsimp only
    split
    · exact fitsRow_none c
    · exact fitsRow_some hc
  | finalizing => exact fitsRow_none c

/-- A length register holds 7 bits, so a length above 64 is below 128. -/
theorem fitsRow_rangeCheck {c : Word} (hc : c = 0x07 ∨ c = 0x08) (s : State) : FitsRow c (rangeCheck s) := by
  have ha := s.hlena.isLt
  have hb := s.hlenb.isLt
  unfold rangeCheck
  split_ifs with hrangeA hrangeB
  · exact fitsRow_some ⟨hc, 0, by decide, s.hlena.toNat, hrangeA, ha, operandInfo_eq 0 (by omega)⟩
  · exact fitsRow_some ⟨hc, 1, by decide, s.hlenb.toNat, hrangeB, hb, operandInfo_eq 1 (by omega)⟩
  · exact fitsRow_none c

/-- A bad position is at most the length, and the lengths are in range. -/
theorem fitsRow_encodingCheck {c : Word} (hc : c = 0x07) {s : State} (hrange : rangeCheck s = none) :
    FitsRow c (encodingCheck s) := by
  obtain ⟨ha, hb⟩ := rangeCheck_eq_none.1 hrange
  unfold encodingCheck
  split
  case h_1 p hbad =>
    have hp := (le_of_badAt (badHexPosition_eq_some.1 hbad)).trans ha
    exact fitsRow_some ⟨hc, 0, by decide, p, hp, operandInfo_eq 0 (by omega)⟩
  case h_2 =>
    split
    case h_1 p hbad =>
      have hp := (le_of_badAt (badHexPosition_eq_some.1 hbad)).trans hb
      exact fitsRow_some ⟨hc, 1, by decide, p, hp, operandInfo_eq 1 (by omega)⟩
    case h_2 => exact fitsRow_none c

theorem fitsRow_lengthCheck {c : Word} (hc : c = 0x07 ∨ c = 0x08) {s : State} (hrange : rangeCheck s = none) :
    FitsRow c (lengthCheck s) := by
  obtain ⟨ha, hb⟩ := rangeCheck_eq_none.1 hrange
  unfold lengthCheck
  split
  case isTrue => exact fitsRow_none c
  case isFalse hne =>
    exact fitsRow_some ⟨hc, s.hlena.toNat, ha, s.hlenb.toNat, hb, fun heq => hne (BitVec.eq_of_toNat_eq heq),
      lengthInfo_eq s.hlena s.hlenb⟩

/-- What the checks of the decoded command report fits a row of the error table. -/
theorem fitsRow_commandCheck {c : Word} {i : Instr} (hdecode : decode c = .ok i) (s : State) :
    FitsRow c (commandCheck i s) := by
  obtain ⟨hwf, hword⟩ := decode_eq_ok_iff.1 hdecode
  cases i with
  | nop | init | rotl _ | clrerr => exact fitsRow_none c
  | absorb => exact fitsRow_absorbCheck (errorRow_sequence hdecode (by decide) s)
  | tail k =>
    have hcheck : commandCheck (.tail k) s = absorbCheck s := if_neg (bne_iff_ne.1 hwf)
    rw [hcheck]
    exact fitsRow_absorbCheck (errorRow_sequence hdecode (by simp [Instr.opcode]) s)
  | fround => exact fitsRow_finalizeCheck (errorRow_sequence hdecode (by decide) s) (.inl hword)
  | final => exact fitsRow_finalizeCheck (errorRow_sequence hdecode (by decide) s) (.inr hword)
  | hamhex =>
    have hc : c = 0x07 := hword
    exact (fitsRow_rangeCheck (.inl hc) s).or fun hrange =>
      (fitsRow_encodingCheck hc hrange).or fun _ => fitsRow_lengthCheck (.inl hc) hrange
  | hambin =>
    have hc : c = 0x08 := hword
    exact (fitsRow_rangeCheck (.inr hc) s).or fun hrange => fitsRow_lengthCheck (.inr hc) hrange

/-- A command run for the word in `CMD` keeps the error record: `CLRERR` empties it, and any other records a row or
nothing. -/
theorem errorInv_of_exec {i : Instr} {s t : State} (hinv : ErrorInv s) (hdecode : decode s.cmd = .ok i)
    (h : exec i s = .next t) : ErrorInv t := by
  obtain ⟨-, rfl⟩ | ⟨e, info, hcheck, rfl⟩ := exec_next_cases h
  · by_cases hi : i = .clrerr
    · exact hi ▸ ⟨rfl, rfl, rfl, rfl⟩
    · exact errorInv_of_sameErrors hinv (sameErrors_commandEffect hi s)
  · exact errorInv_recordError hinv (fitsRow_commandCheck hdecode s (e, info) hcheck)

/-- Settles O55: an illegal word is recorded in its own row, a legal one by its command, and reset empties the record. -/
theorem stepKeepsErrorRecord : Obligations.StepKeepsErrorRecord := by
  intro s t hinv h
  cases step_next_cases h with
  | idle | read => exact hinv
  | @store off v rest => exact errorInv_of_sameErrors hinv (sameErrors_storeReg (regAt off) v (s.setPort rest))
  | @command c i rest _ _ _ hdecode hexec =>
    exact errorInv_of_exec (s := (s.setPort rest).setCommand c) hinv hdecode hexec
  | @illegal c d rest _ _ hdecode =>
    have hillegal : ¬ Legal c := fun hlegal => by
      obtain ⟨i, hok⟩ := exists_decode_iff_legal.2 hlegal
      rw [hok] at hdecode
      cases hdecode
    exact errorInv_recordError (s := (s.setPort rest).setCommand c) hinv ⟨hillegal, rfl⟩
  | @reset b rest =>
    obtain ⟨-, hdrive⟩ | ⟨-, -, hdrive⟩ | ⟨-, -, hdrive⟩ := driveReset_cases b (s.setPort rest) <;> rw [hdrive]
    · exact hinv
    · exact errorInv_reset
    · exact hinv

/-- Settles O56: the buffers list nothing, no session is open and no error is recorded. -/
theorem invariantsHoldAtReset : Obligations.InvariantsHoldAtReset :=
  ⟨memoryInv_reset, sessionInv_reset, errorInv_reset⟩

end Sys2Proof.Machine
end

section
/-!
PROOFS. The canonical form of the operand buffers: the bytes fix the data (10_state.md rule R23; log entry 9).
-/

namespace Sys2Proof.Machine

theorem Memory.wf.lt_of_mem_tail {a : Nat} {v : Byte} {m : Memory} (h : Memory.wf ((a, v) :: m)) : ∀ c ∈ m, a < c.1 :=
  (List.pairwise_cons.1 h.1).1

theorem Memory.wf.tail {c : Host.Cell} {m : Memory} (h : Memory.wf (c :: m)) : Memory.wf m :=
  ⟨(List.pairwise_cons.1 h.1).2, fun d hd => h.2 d (List.mem_cons_of_mem _ hd)⟩

@[simp] theorem memRead_head (a : Nat) (v : Byte) (m : Memory) : memRead ((a, v) :: m) a = v := if_pos rfl

theorem Memory.wf.memRead_head_ne {a : Nat} {v : Byte} {m : Memory} (h : Memory.wf ((a, v) :: m)) :
    memRead ((a, v) :: m) a ≠ Memory.unlisted := by
  rw [memRead_head]
  exact (h.2 _ (List.mem_cons_self ..)).1

/-- The first listed address of a canonical memory is the first that does not read as unlisted, so a memory that reads the
same lists nothing below it. -/
theorem Memory.wf.head_le {a b : Nat} {v w : Byte} {m m' : Memory} (h : Memory.wf ((a, v) :: m))
    (h' : Memory.wf ((b, w) :: m')) (hread : memRead ((a, v) :: m) a = memRead ((b, w) :: m') a) : b ≤ a := by
  by_contra hlt
  have hlt : a < b := Nat.not_le.1 hlt
  rw [memRead_of_lt ((b, w) :: m') a fun c hc => ?below] at hread
  case below =>
    obtain rfl | hc := List.mem_cons.1 hc
    · exact hlt
    · exact hlt.trans (h'.lt_of_mem_tail c hc)
  exact h.memRead_head_ne hread

/-- Settles O13, entry by entry: the heads stand at one address and hold one byte, and the tails read the same. -/
theorem canonicalMemoriesAreEqual : Obligations.CanonicalMemoriesAreEqual := by
  intro m
  induction m with
  | nil =>
    intro m' _ h' hread
    match m' with
    | [] => rfl
    | (b, w) :: m' => exact absurd (hread b).symm h'.memRead_head_ne
  | cons c m ih =>
    obtain ⟨a, v⟩ := c
    intro m' h h' hread
    match m' with
    | [] => exact absurd (hread a) h.memRead_head_ne
    | (b, w) :: m' =>
      obtain rfl : a = b := Nat.le_antisymm (h'.head_le h (hread b).symm) (h.head_le h' (hread a))
      obtain rfl : v = w := by simpa using hread a
      congr 1
      refine ih m' h.tail h'.tail fun x => ?_
      by_cases hx : x ≤ a
      · rw [memRead_of_lt m x fun c hc => hx.trans_lt (h.lt_of_mem_tail c hc),
          memRead_of_lt m' x fun c hc => hx.trans_lt (h'.lt_of_mem_tail c hc)]
      · have hne : x ≠ a := fun heq => hx heq.le
        simpa only [memRead_cons, if_neg hne] using hread x

/-- Writing a word twice is writing it once: the two memories are canonical and read the same. -/
theorem memWriteWord_memWriteWord {m : Memory} (hm : Memory.wf m) {off : Nat} (lo : 0x100 ≤ off) (hi : off + 3 < 0x180)
    (v : Word) : memWriteWord (memWriteWord m off v) off v = memWriteWord m off v := by
  have honce := memWriteWord_wf hm lo hi v
  refine canonicalMemoriesAreEqual _ _ (memWriteWord_wf honce lo hi v) honce fun a => ?_
  rw [memRead_memWriteWord honce.1, memRead_memWriteWord hm.1]
  split <;> rfl

end Sys2Proof.Machine
end

section
/-!
PROOFS. The register window: what each offset reads as, what a write leaves, and the windows of several cores (10_state.md
rules R28, R29; 20_memory.md rules R32 to R37).
-/

namespace Sys2Proof.Machine

open Sys2Proof.Safety

/-! ### The registers at the offsets -/

theorem regAt_HEX {j : Nat} (hj : j < 8) : regAt (0x060 + 4 * j) = .HEX ⟨j, hj⟩ := by
  rw [regAt_hexView (by omega) (by omega)]
  congr 1
  apply Fin.ext
  rw [Fin.val_ofNat]
  show _ = j
  omega

theorem regAt_HBUFA {j : Nat} (hj : j < 16) : regAt (0x100 + 4 * j) = .HBUFA ⟨j, hj⟩ := by
  have hindex : Fin.ofNat 16 ((0x100 + 4 * j - 0x100) / 4) = ⟨j, hj⟩ := by
    apply Fin.ext
    simp only [Fin.val_ofNat]
    omega
  simp (disch := omega) only [regAt, if_pos, if_neg, hindex]

theorem regAt_HBUFB {j : Nat} (hj : j < 16) : regAt (0x140 + 4 * j) = .HBUFB ⟨j, hj⟩ := by
  have hindex : Fin.ofNat 16 ((0x140 + 4 * j - 0x140) / 4) = ⟨j, hj⟩ := by
    apply Fin.ext
    simp only [Fin.val_ofNat]
    omega
  simp (disch := omega) only [regAt, if_pos, if_neg, hindex]

/-! ### Reads -/

/-- The lanes of a word made of four consecutive bytes. -/
theorem lane_le32_consecutive (f : Nat → Byte) (o : Nat) {i : Nat} (hi : i < 4) :
    lane (le32 (f o) (f (o + 1)) (f (o + 2)) (f (o + 3))) i = f (o + i) := by
  rw [lane_le32 _ _ _ _ hi]
  interval_cases i <;> rfl

/-- Settles O9: a legal read returns the register at its offset, and a view's word is made of its four bytes. -/
theorem registerReads : Obligations.RegisterReads := by
  intro s
  have reads {off : Nat} (r : Reg) (hr : regAt off = r) (halign : off % 4 = 0) (hwindow : off < 0x200) :
      ReadsAs s off (readReg r s) := hr ▸ readsAs_readReg halign hwindow s
  refine ⟨reads .CMD rfl rfl (by decide), reads .STATUS rfl rfl (by decide), reads .ERRCMD rfl rfl (by decide),
    reads .ERRINFO rfl rfl (by decide), reads .LEN rfl rfl (by decide), reads .NLEN rfl rfl (by decide),
    reads .CNT rfl rfl (by decide), reads .DIN0 rfl rfl (by decide), reads .DIN1 rfl rfl (by decide),
    reads .OPX rfl rfl (by decide), reads .RESULT rfl rfl (by decide), ?hlena, ?hlenb,
    reads (.STATE 0) rfl rfl (by decide), reads (.STATE 1) rfl rfl (by decide), reads (.STATE 2) rfl rfl (by decide),
    reads (.STATE 3) rfl rfl (by decide), fun j hj => ?hex, fun j hj => ?hbufa, fun j hj => ?hbufb⟩
  case hlena => exact BitVec.ofNat_toNat 32 s.hlena ▸ reads .HLENA rfl rfl (by decide)
  case hlenb => exact BitVec.ofNat_toNat 32 s.hlenb ▸ reads .HLENB rfl rfl (by decide)
  case hex =>
    exact ⟨_, reads _ (regAt_HEX hj) (by omega) (by omega), fun i hi => lane_le32_consecutive (hexDigit s.S) (4 * j) hi⟩
  case hbufa =>
    refine ⟨_, reads _ (regAt_HBUFA hj) (by omega) (by omega), fun i hi => ?_⟩
    rw [← Nat.add_assoc]
    exact lane_le32_consecutive (memRead s.hbuf) (0x100 + 4 * j) hi
  case hbufb =>
    refine ⟨_, reads _ (regAt_HBUFB hj) (by omega) (by omega), fun i hi => ?_⟩
    rw [← Nat.add_assoc]
    exact lane_le32_consecutive (memRead s.hbuf) (0x140 + 4 * j) hi

/-! ### Writes -/

/-- A store at an offset of the buffers writes the word there. -/
theorem storeReg_buffer {off : Nat} (halign : off % 4 = 0) (lo : 0x100 ≤ off) (hi : off < 0x180) (v : Word) (s : State) :
    storeReg (regAt off) v s = { s with hbuf := memWriteWord s.hbuf off v } := by
  by_cases hA : off < 0x140
  · obtain ⟨j, rfl⟩ : ∃ j, off = 0x100 + 4 * j := ⟨(off - 0x100) / 4, by omega⟩
    rw [regAt_HBUFA (by omega)]
    rfl
  · obtain ⟨j, rfl⟩ : ∃ j, off = 0x140 + 4 * j := ⟨(off - 0x140) / 4, by omega⟩
    rw [regAt_HBUFB (by omega)]
    rfl

theorem regAt_STATE {off : Nat} (lo : 0x040 ≤ off) (hi : off < 0x050) :
    regAt off = .STATE (Fin.ofNat 4 ((off - 0x040) / 4)) := by
  simp (disch := omega) only [regAt, if_pos, if_neg]

/-- The offsets of the read-only registers: the error registers and `STATUS`, `NLEN` and `CNT`, `RESULT`, the state words
and the hex view (rule R28). -/
def IsReadOnlyOffset (off : Nat) : Prop :=
  (0x004 ≤ off ∧ off < 0x010) ∨ (0x014 ≤ off ∧ off < 0x01C) ∨ off = 0x02C ∨ (0x040 ≤ off ∧ off < 0x050) ∨
    (0x060 ≤ off ∧ off < 0x080)

/-- A store at the offset of a read-only register writes nothing. -/
theorem storeReg_readOnly {off : Nat} (halign : off % 4 = 0) (h : IsReadOnlyOffset off) (v : Word) (s : State) :
    storeReg (regAt off) v s = s := by
  obtain ⟨lo, hi⟩ | ⟨lo, hi⟩ | rfl | ⟨lo, hi⟩ | ⟨lo, hi⟩ := h
  · obtain rfl | rfl | rfl : off = 0x004 ∨ off = 0x008 ∨ off = 0x00C := by omega
    all_goals rfl
  · obtain rfl | rfl : off = 0x014 ∨ off = 0x018 := by omega
    all_goals rfl
  · rfl
  · rw [regAt_STATE lo hi]; rfl
  · rw [regAt_hexView lo hi]; rfl

/-- Settles O10: a legal write leaves what the store of the register at its offset leaves. -/
theorem registerWrites : Obligations.RegisterWrites := by
  intro s v hcanonical
  have writes {off : Nat} {t : State} (ht : storeReg (regAt off) v s = t) (halign : off % 4 = 0) (hwindow : off < 0x200)
      (h0 : off ≠ 0) : WriteLeaves s off v t := ht ▸ writeLeaves_storeReg halign hwindow h0 v s
  refine ⟨writes rfl rfl (by decide) (by decide), writes rfl rfl (by decide) (by decide),
    writes rfl rfl (by decide) (by decide), writes rfl rfl (by decide) (by decide), ?hlena, ?hlenb,
    fun off halign lo hi => ?buffer, fun off halign hoff => ?readOnly⟩
  case hlena => exact writes (by rw [← BitVec.setWidth_eq_extractLsb' (by decide)]; rfl) rfl (by decide) (by decide)
  case hlenb => exact writes (by rw [← BitVec.setWidth_eq_extractLsb' (by decide)]; rfl) rfl (by decide) (by decide)
  case buffer =>
    exact ⟨_, writes (storeReg_buffer halign lo hi v s) halign (by omega) (by omega),
      memRead_memWriteWord hcanonical.1 off v⟩
  case readOnly =>
    have hrange : off ≠ 0 ∧ off < 0x200 := by omega
    exact writes (storeReg_readOnly halign hoff v s) halign hrange.2 hrange.1

/-- A second store of the same value changes nothing. -/
theorem storeReg_storeReg (r : Reg) (v : Word) {s : State} (h : MemoryInv s) :
    storeReg r v (storeReg r v s) = storeReg r v s := by
  cases r with
  | HBUFA j =>
    simp only [storeReg, memWriteWord_memWriteWord h (show 0x100 ≤ 0x100 + 4 * (j : Nat) by omega) (by omega)]
  | HBUFB j =>
    simp only [storeReg, memWriteWord_memWriteWord h (show 0x100 ≤ 0x140 + 4 * (j : Nat) by omega) (by omega)]
  | _ => rfl

/-- Settles O12: both writes are stores to the register at the offset. -/
theorem writingTwiceIsWritingOnce : Obligations.WritingTwiceIsWritingOnce := by
  intro s off v hcanonical halign hwindow h0
  refine ⟨storeReg (regAt off) v s, writeLeaves_storeReg halign hwindow h0 v s, ?_⟩
  have hagain := writeLeaves_storeReg halign hwindow h0 v (storeReg (regAt off) v s)
  rwa [storeReg_storeReg (regAt off) v hcanonical] at hagain

/-! ### Windows -/

theorem windowOffset_eq_some {p : Config.Platform} {addr off : Nat} :
    windowOffset p addr = some off ↔ off < 512 ∧ addr = p.thBase + off := by
  unfold windowOffset Config.windowBytes
  split
  case isTrue hin =>
    rw [Option.some_inj]
    omega
  case isFalse hout =>
    refine ⟨nofun, fun ⟨hoff, haddr⟩ => ?_⟩
    omega

/-- Settles O14: two windows that share an address have bases less than 512 apart, and both are multiples of 512. -/
theorem windowsAreDisjoint : Obligations.WindowsAreDisjoint := by
  refine ⟨fun p addr off => windowOffset_eq_some, fun p q addr hbase hp => ?_⟩
  obtain ⟨off, hp⟩ := Option.ne_none_iff_exists'.1 hp
  obtain ⟨hoff, rfl⟩ := windowOffset_eq_some.1 hp
  refine Option.eq_none_iff_forall_ne_some.2 fun off' hq => hbase ?_
  obtain ⟨hoff', haddr⟩ := windowOffset_eq_some.1 hq
  have hpaligned := p.aligned
  have hqaligned := q.aligned
  omega

end Sys2Proof.Machine
end

section
/-!
PROOFS. `ABSORB` as an invertible map, and `TAIL` with its zero padding (41_absorb.md rules R61, R62, R65).
-/

namespace Sys2Proof.Machine

open Sys2Proof.Safety

/-! ### `ABSORB` is invertible -/

/-- A rotation is undone by the rotation that completes it to a full turn. -/
theorem rotl32_injective (r : Nat) : Function.Injective fun x => rotl32 x r := by
  refine Function.LeftInverse.injective (g := fun x => rotl32 x (32 - r % 32)) fun x => ?_
  have hturn : (r + (32 - r % 32)) % 32 = 0 := by omega
  exact (rotl32_rotl32 x r _).trans (rotl32_of_mod_eq_zero hturn x)

/-- An odd number shares no factor with `2^32`, so it can be cancelled. -/
theorem mul_left_cancel_of_odd {k x y : Word} (hk : Odd k.toNat) (h : k * x = k * y) : x = y := by
  have hcoprime : Nat.Coprime (2 ^ 32) k.toNat := (Nat.coprime_two_left.2 hk).pow_left 32
  have hmod : k.toNat * x.toNat ≡ k.toNat * y.toNat [MOD 2 ^ 32] := by
    rw [Nat.ModEq, ← BitVec.toNat_mul, ← BitVec.toNat_mul, h]
  exact BitVec.eq_of_toNat_eq ((hmod.cancel_left_of_coprime hcoprime).eq_of_lt_of_lt x.isLt y.isLt)

/-- A rotation and then a product with an odd constant can be undone. -/
theorem rotl32_mul_cancel {k : Word} (hk : Odd k.toNat) {r : Nat} {x y : Word} (h : k * rotl32 x r = k * rotl32 y r) :
    x = y := rotl32_injective r (mul_left_cancel_of_odd hk h)

theorem StateWords.eq_of_words {S T : StateWords} (h0 : S.w0 = T.w0) (h1 : S.w1 = T.w1) (h2 : S.w2 = T.w2)
    (h3 : S.w3 = T.w3) : S = T := by
  cases S
  cases T
  exact StateWords.mk.injEq .. ▸ ⟨h0, h1, h2, h3⟩

/-- The first four updates of `ABSORB`, which bring in the block (rule R61). -/
def foldBlock (w1 w2 : Word) (S : StateWords) : StateWords where
  w0 := S.w0 + w1
  w1 := S.w1 ^^^ w2
  w2 := S.w2 + rotl32 (w1 ^^^ (S.w1 ^^^ w2)) 5
  w3 := S.w3 ^^^ rotl32 (w2 + (S.w0 + w1)) 11

/-- The last four updates of `ABSORB`, which mix the words (rule R61). -/
def mixWords (S : StateWords) : StateWords :=
  let w0 := ka0 * rotl32 (S.w0 ^^^ S.w3) 7
  let w1 := ka1 * rotl32 (S.w1 + w0) 13
  let w2 := ka2 * rotl32 (S.w2 ^^^ w1) 17
  let w3 := ka3 * rotl32 (S.w3 + w2) 19
  { w0 := w0, w1 := w1, w2 := w2, w3 := w3 }

theorem absorbWords_eq_mixWords (S : StateWords) (w1 w2 : Word) : absorbWords S w1 w2 = mixWords (foldBlock w1 w2 S) := rfl

/-- Words 0 and 1 give back their old values, and with them words 2 and 3. -/
theorem foldBlock_injective (w1 w2 : Word) : Function.Injective (foldBlock w1 w2) := by
  intro S T h
  have h0 : S.w0 = T.w0 := add_right_cancel (congrArg StateWords.w0 h)
  have h1 : S.w1 = T.w1 := (BitVec.xor_left_inj w2).1 (congrArg StateWords.w1 h)
  have h2 := congrArg StateWords.w2 h
  have h3 := congrArg StateWords.w3 h
  simp only [foldBlock, h0, h1] at h2 h3
  exact StateWords.eq_of_words h0 h1 (add_right_cancel h2) ((BitVec.xor_left_inj _).1 h3)

/-- Each new word is made with the one before it, so word 1 gives back its old value, then words 2 and 3, and word 0 last. -/
theorem mixWords_injective : Function.Injective mixWords := by
  intro S T h
  have h03 : S.w0 ^^^ S.w3 = T.w0 ^^^ T.w3 := rotl32_mul_cancel (k := ka0) (by decide) (congrArg StateWords.w0 h)
  have h1 : S.w1 + (mixWords S).w0 = T.w1 + (mixWords T).w0 :=
    rotl32_mul_cancel (k := ka1) (by decide) (congrArg StateWords.w1 h)
  have h2 : S.w2 ^^^ (mixWords S).w1 = T.w2 ^^^ (mixWords T).w1 :=
    rotl32_mul_cancel (k := ka2) (by decide) (congrArg StateWords.w2 h)
  have h3 : S.w3 + (mixWords S).w2 = T.w3 + (mixWords T).w2 :=
    rotl32_mul_cancel (k := ka3) (by decide) (congrArg StateWords.w3 h)
  rw [h] at h1 h2 h3
  have h3 := add_right_cancel h3
  rw [h3] at h03
  exact StateWords.eq_of_words ((BitVec.xor_left_inj _).1 h03) (add_right_cancel h1) ((BitVec.xor_left_inj _).1 h2) h3

theorem finite_stateWords : Finite StateWords :=
  have : Finite Word := Finite.of_equiv _ BitVec.equivFin.toEquiv.symm
  Finite.of_injective (fun S : StateWords => (S.w0, S.w1, S.w2, S.w3)) fun S T h => by
    obtain ⟨h0, h1, h2, h3⟩ : S.w0 = T.w0 ∧ S.w1 = T.w1 ∧ S.w2 = T.w2 ∧ S.w3 = T.w3 := by simpa using h
    exact StateWords.eq_of_words h0 h1 h2 h3

/-- Settles O23: both halves of the update are injective, and there are finitely many states. -/
theorem absorbIsInvertible : Obligations.AbsorbIsInvertible := by
  intro w1 w2
  have := finite_stateWords
  simp only [absorbWords_eq_mixWords]
  exact (mixWords_injective.comp (foldBlock_injective w1 w2)).bijective_of_finite

/-! ### `TAIL` -/

theorem tailCheck_of_zero (s : State) : tailCheck 0 s = some (.illegalCommand, 0) := if_pos rfl

theorem tailCheck_of_ne_zero {k : BitVec 3} (hk : k ≠ 0) (s : State) : tailCheck k s = absorbCheck s := if_neg hk

/-- In phase `ABSORB` the padded block is folded into `S`, its `k` bytes are counted, and the tail is done. -/
theorem exec_tail {k : BitVec 3} (hk : k ≠ 0) {s : State} (h : s.phase = .absorb) :
    exec (.tail k) s = .next { s with
      S := tailWords s.S (blockLow (tailBlock k.toNat s.din0 s.din1)) (blockHigh (tailBlock k.toNat s.din0 s.din1)) s.n,
      cnt := s.cnt + BitVec.ofNat 32 k.toNat, phase := .tailed } := by
  rw [BitVec.ofNat_toNat]
  exact exec_of_check_none ((tailCheck_of_ne_zero hk s).trans (absorbCheck_of_absorb h))

/-- Settles O24: a word is fixed by its lanes, so `w1` and `w2` are the words of the tail block. -/
theorem tailFoldsPaddedBlock : Obligations.TailFoldsPaddedBlock := by
  obtain ⟨-, -, hdecode, -⟩ := opcodeTableGivesTheWords
  refine fun s k => ⟨hdecode k, fun hk => ?illegal, fun hk hphase => ?sequence, fun hk hphase w1 w2 hw1 hw2 => ?updates⟩
  case illegal =>
    subst hk
    exact raises_of_check_some (tailCheck_of_zero s)
  case sequence =>
    exact raisesSequence_of_check_some ((tailCheck_of_ne_zero hk s).trans (absorbCheck_of_ne_absorb hphase))
  case updates =>
    obtain rfl : w1 = blockLow (tailBlock k.toNat s.din0 s.din1) :=
      word_ext fun i hi => (hw1 i hi).trans (blockLow_tailBlock _ _ _ hi).symm
    obtain rfl : w2 = blockHigh (tailBlock k.toNat s.din0 s.din1) :=
      word_ext fun i hi => (hw2 i hi).trans (blockHigh_tailBlock _ _ _ hi).symm
    rw [exec_tail hk hphase]
    simp only [tailWords, rotl32_eq_rotateLeft]

/-- The tail block's words look at the lanes below `k` alone. -/
theorem blockLow_tailBlock_congr {k : Nat} {d0 e0 : Word} (d1 e1 : Word)
    (h : ∀ i < 4, i < k → d0.extractLsb' (8 * i) 8 = e0.extractLsb' (8 * i) 8) :
    blockLow (tailBlock k d0 d1) = blockLow (tailBlock k e0 e1) := by
  refine word_ext fun i hi => ?_
  rw [blockLow_tailBlock _ _ _ hi, blockLow_tailBlock _ _ _ hi]
  split
  · exact h i hi ‹_›
  · rfl

theorem blockHigh_tailBlock_congr {k : Nat} (d0 e0 : Word) {d1 e1 : Word}
    (h : ∀ i < 4, i + 4 < k → d1.extractLsb' (8 * i) 8 = e1.extractLsb' (8 * i) 8) :
    blockHigh (tailBlock k d0 d1) = blockHigh (tailBlock k e0 e1) := by
  refine word_ext fun i hi => ?_
  rw [blockHigh_tailBlock _ _ _ hi, blockHigh_tailBlock _ _ _ hi]
  split
  · exact h i hi ‹_›
  · rfl

/-- A tail of at most 4 bytes leaves no byte for `w2`. -/
theorem blockHigh_tailBlock_of_le {k : Nat} (hk : k ≤ 4) (d0 d1 : Word) : blockHigh (tailBlock k d0 d1) = 0 := by
  refine word_ext fun i hi => ?_
  rw [blockHigh_tailBlock _ _ _ hi, if_neg (by omega)]
  simp

/-- `s` with other block words. -/
def State.withBlock (s : State) (d0 d1 : Word) : State := { s with din0 := d0, din1 := d1 }

theorem recordError_withBlock (e : ErrCode) (c info : Word) (s : State) (d0 d1 : Word) :
    recordError e c info (s.withBlock d0 d1) = (recordError e c info s).withBlock d0 d1 := by
  cases h : s.err with
  | true => rw [recordError_of_err h, recordError_of_err (s := s.withBlock d0 d1) h]; rfl
  | false => rw [recordError_of_not_err h, recordError_of_not_err (s := s.withBlock d0 d1) h]; rfl

/-- With `w2 = 0` the tail leaves word 3 and brings `N` alone into word 1 (rule R62, corner case). -/
theorem tailWords_of_w2_eq_zero (S : StateWords) (w1 n : Word) :
    (tailWords S w1 0 n).w3 = S.w3 ∧ (tailWords S w1 0 n).w1 = S.w1 ^^^ n := by
  have hrotl : rotl32 0#32 7 = 0#32 := by decide
  simp [tailWords, hrotl]

/-- Settles O25: the checks do not look at the block, and the effect looks at the tail block's words. -/
theorem tailIgnoresStaleLanes : Obligations.TailIgnoresStaleLanes := by
  intro s k d0 d1 hd0 hd1
  have hlow := blockLow_tailBlock_congr d1 s.din1 hd0
  have hhigh := blockHigh_tailBlock_congr d0 s.din0 hd1
  have hcheck : commandCheck (.tail k) (s.withBlock d0 d1) = commandCheck (.tail k) s := rfl
  have heffect : commandEffect (.tail k) (s.withBlock d0 d1) = (commandEffect (.tail k) s).withBlock d0 d1 := by
    simp only [commandEffect, State.withBlock, hlow, hhigh]
    rfl
  obtain ⟨t, h⟩ := exists_exec_eq_next (.tail k) s
  refine ⟨t, h, ?stale, fun hphase hk hle => ?short⟩
  case stale =>
    change exec (.tail k) (s.withBlock d0 d1) = .next (t.withBlock d0 d1)
    obtain ⟨hnone, rfl⟩ | ⟨e, info, hsome, rfl⟩ := exec_next_cases h
    · rw [exec_of_check_none (hcheck.trans hnone), heffect]
    · rw [exec_of_check_some (hcheck.trans hsome), recordError_withBlock]
      rfl
  case short =>
    rw [exec_tail hk hphase, blockHigh_tailBlock_of_le hle] at h
    rw [← Host.Outcome.next.inj h]
    exact tailWords_of_w2_eq_zero s.S _ s.n

end Sys2Proof.Machine
end

section
/-!
PROOFS. Splits of the six rounds, and the start of finalization after an unneeded tail (41_absorb.md rule R65; 42_finalize.md
rules R68, R70).
-/

namespace Sys2Proof.Machine

open Sys2Proof.Safety

/-- The remaining rounds are the next one and then the rest. -/
theorem remainingRounds_eq_succ {r : Nat} (hr : r < 6) (S : StateWords) :
    remainingRounds r S = remainingRounds (r + 1) (roundWords r S) := by
  unfold remainingRounds
  rw [show 6 - r = 6 - (r + 1) + 1 by omega]
  rfl

/-- Settles O30: `FROUND` takes the first of the rounds that `FINAL` runs, and round 5 is the last of them. -/
theorem finalAfterFroundIsFinal : Obligations.FinalAfterFroundIsFinal := by
  refine fun s hready => ⟨fun hround => ⟨_, exec_fround hready, ?early⟩, fun hround => ?last⟩
  case early =>
    have hne : s.round.toNat ≠ 5 := by omega
    have hnext : (s.round + 1).toNat = s.round.toNat + 1 := by bv_omega
    rw [exec_final (.inl (if_neg hne)), exec_final hready, remainingRounds_eq_succ (by omega) s.S, hnext]
  case last =>
    have hsix : s.round + 1 = 6 := round_add_one_eq_six_iff.2 hround
    rw [exec_fround hready, exec_final hready, if_pos hround, hsix, remainingRounds_eq_succ (by omega) s.S, hround]
    rfl

/-- Settles O31: after a tail `CNT` is off the multiples of 8, and `N` is one of them. -/
theorem unneededTailIsCaught : Obligations.UnneededTailIsCaught := by
  intro s i hinv hphase hn hi
  obtain ⟨-, hcnt⟩ := sessionInv_in_tailed hinv hphase
  have hne : s.cnt ≠ s.n := fun heq => hcnt (heq ▸ hn)
  have hcheck := finalizeCheck_of_cnt_ne (.inr hphase) hne
  obtain rfl | rfl := hi <;> exact raises_of_check_some hcheck

end Sys2Proof.Machine
end

section
/-!
PROOFS. The hex string of a state decodes to its digest bytes (43_serializer.md rule R74; 44_comparator.md rule R79).
-/

namespace Sys2Proof.Machine

/-- A character of the serializer is valid and stands for its nibble. -/
theorem hexval_hexchar (v : BitVec 4) : hexval (hexchar v) = some (v.setWidth 8) := by
  have hv := v.isLt
  have hchar := toNat_hexchar v
  refine Option.map_injective (BitVec.toNat_injective) ?_
  rw [map_toNat_hexval, Option.map_some, BitVec.toNat_setWidth]
  split at hchar
  case isTrue hdigit =>
    rw [if_pos (by omega)]
    exact congrArg some (by omega)
  case isFalse hletter =>
    rw [if_neg (by omega), if_pos (by omega)]
    exact congrArg some (by omega)

theorem hexval_hexDigit_ne_none (S : StateWords) (m : Nat) : hexval (hexDigit S m) ≠ none := by
  unfold hexDigit
  split <;> rw [hexval_hexchar] <;> exact Option.some_ne_none _

/-- A byte is its two nibbles. -/
theorem hexPair_hexchar (b : Byte) : hexPair (hexchar (b.extractLsb' 4 4)) (hexchar (b.extractLsb' 0 4)) = b := by
  have hb := b.isLt
  refine BitVec.eq_of_toNat_eq ?_
  simp only [toNat_hexPair, hexval_hexchar, Option.getD_some, BitVec.toNat_setWidth, BitVec.extractLsb'_toNat,
    Nat.shiftRight_eq_div_pow]
  omega

/-- Characters taken in pairs decode to one byte each. -/
theorem decodeHex_map_range (f : Nat → Byte) (k : Nat) :
    decodeHex ((List.range (2 * k)).map f) = (List.range k).map fun i => hexPair (f (2 * i)) (f (2 * i + 1)) := by
  refine List.ext_getElem? fun i => ?_
  by_cases hi : i < k
  · rw [getElem?_decodeHex (hi := f (2 * i)) (lo := f (2 * i + 1)) ?high ?low]
    · simp [hi]
    case high => simp [hi]
    case low => simp [show 2 * i + 1 < 2 * k by omega]
  · rw [List.getElem?_eq_none (by simp [length_decodeHex]; omega), List.getElem?_eq_none (by simp; omega)]

/-- Settles O34: every character is one of `hexchar`, and a pair of them is a digest byte. -/
theorem hexStringDecodesToDigest : Obligations.HexStringDecodesToDigest := by
  refine fun S => ⟨badHexPosition_eq_none_iff.2 ⟨?even, fun c hc => ?valid⟩, ?decoded⟩
  case even => simp [hexString]
  case valid =>
    obtain ⟨m, -, rfl⟩ := List.mem_map.1 hc
    exact hexval_hexDigit_ne_none S m
  case decoded =>
    simp only [hexString, decodeHex_map_range (hexDigit S) 16, hexDigit_two_mul, hexDigit_two_mul_add_one, hexPair_hexchar,
      digestBytes]

end Sys2Proof.Machine
end

section
/-!
PROOFS. The comparator's distance: differing bits, the laws of a distance, and exchanged operands (00_scope.md rule R12;
44_comparator.md rule R82).
-/

namespace Sys2Proof.Machine

open Sys2Proof.Safety

/-! ### Bit counts -/

theorem popcount_eq_sum (v : Byte) : popcount v = ∑ i : Fin 8, if v.getLsbD i = true then 1 else 0 := by
  rw [popcount, List.countP_eq_length_filter, ← Finset.sum_range (n := 8) fun i => if v.getLsbD i = true then 1 else 0,
    ← Finset.card_filter]
  change _ = ((List.range 8).filter fun i => decide (v.getLsbD i = true)).length
  simp only [Bool.decide_eq_true]

/-- The bits of the XOR are the differing bits. -/
theorem popcount_xor_eq_sum (x y : Byte) :
    popcount (x ^^^ y) = ∑ i : Fin 8, if x.getLsbD i ≠ y.getLsbD i then 1 else 0 := by
  simp only [popcount_eq_sum, BitVec.getLsbD_xor, bne_iff_ne]

theorem popcount_le (v : Byte) : popcount v ≤ 8 := by
  rw [popcount]
  exact List.countP_le_length

theorem popcount_eq_zero {v : Byte} : popcount v = 0 ↔ v = 0 := by
  rw [popcount, List.countP_eq_zero]
  constructor
  · exact fun h => BitVec.eq_of_getLsbD_eq fun i hi => by simpa using h i (List.mem_range.2 hi)
  · rintro rfl i -
    simp

/-- A bit of `x` and `z` that differs differs at one of the two hops. -/
theorem popcount_xor_triangle (x y z : Byte) : popcount (x ^^^ z) ≤ popcount (x ^^^ y) + popcount (y ^^^ z) := by
  simp only [popcount_xor_eq_sum, ← Finset.sum_add_distrib]
  refine Finset.sum_le_sum fun i _ => ?_
  cases x.getLsbD i <;> cases y.getLsbD i <;> cases z.getLsbD i <;> decide

/-! ### The distance of two sequences of bytes -/

/-- The Hamming distance of the first `k` bytes of two sequences. -/
def byteDistance (f g : Nat → Byte) (k : Nat) : Nat := ∑ j ∈ Finset.range k, popcount (f j ^^^ g j)

theorem byteDistance_comm (f g : Nat → Byte) (k : Nat) : byteDistance f g k = byteDistance g f k := by
  simp only [byteDistance, BitVec.xor_comm]

theorem byteDistance_le (f g : Nat → Byte) (k : Nat) : byteDistance f g k ≤ 8 * k := by
  have h := Finset.sum_le_card_nsmul (Finset.range k) (fun j => popcount (f j ^^^ g j)) 8 fun j _ => popcount_le _
  rwa [Finset.card_range, smul_eq_mul, Nat.mul_comm] at h

theorem byteDistance_eq_zero {f g : Nat → Byte} {k : Nat} : byteDistance f g k = 0 ↔ ∀ j < k, f j = g j := by
  simp only [byteDistance, Finset.sum_eq_zero_iff, popcount_eq_zero, Finset.mem_range]
  exact forall₂_congr fun j _ => BitVec.xor_eq_zero_iff

theorem byteDistance_triangle (f g h : Nat → Byte) (k : Nat) :
    byteDistance f h k ≤ byteDistance f g k + byteDistance g h k := by
  simp only [byteDistance, ← Finset.sum_add_distrib]
  exact Finset.sum_le_sum fun j _ => popcount_xor_triangle (f j) (g j) (h j)

theorem byteDistance_congr {f f' g g' : Nat → Byte} {k : Nat} (hf : ∀ j < k, f j = f' j) (hg : ∀ j < k, g j = g' j) :
    byteDistance f g k = byteDistance f' g' k :=
  Finset.sum_congr rfl fun j hj => by rw [hf j (Finset.mem_range.1 hj), hg j (Finset.mem_range.1 hj)]

theorem map_getD_range (xs : List Byte) : (List.range xs.length).map (fun j => xs.getD j 0) = xs := by
  refine List.ext_getElem (by simp) fun j _ hj => ?_
  simp [hj]

/-- The model's distance of two strings of one length. -/
theorem hammingDistance_eq_byteDistance {xs ys : List Byte} (h : xs.length = ys.length) :
    hammingDistance xs ys = byteDistance (fun j => xs.getD j 0) (fun j => ys.getD j 0) xs.length := by
  rw [byteDistance, ← hammingDistance_range, map_getD_range, h, map_getD_range]

/-- Settles O37: the pairs are counted byte by byte, and in a byte bit by bit. -/
theorem distanceCountsDifferingBits : Obligations.DistanceCountsDifferingBits := by
  intro xs ys h
  rw [hammingDistance_eq_byteDistance h, byteDistance, Finset.sum_range, Finset.card_filter, Fintype.sum_prod_type]
  simp only [popcount_xor_eq_sum]

/-! ### The distance of ready operands -/

/-- Byte `j` of the operand at `base`, as the command compares it: decoded by `HAMHEX`, as it stands by `HAMBIN`. -/
def comparedByte (i : Instr) (m : Memory) (base j : Nat) : Byte :=
  if i = .hamhex then decodedByte m base j else memRead m (base + j)

/-- How many bytes the command compares of operands of `L` bytes. -/
def comparedLength (i : Instr) (L : Nat) : Nat := if i = .hamhex then L / 2 else L

theorem comparedLength_le (i : Instr) (L : Nat) : comparedLength i L ≤ L := by
  unfold comparedLength
  split <;> omega

/-- The distance the command computes of the operands in `s`. -/
def operandDistance (i : Instr) (s : State) : Nat :=
  byteDistance (comparedByte i s.hbuf 0x100) (comparedByte i s.hbuf 0x140) (comparedLength i s.hlena.toNat)

theorem binaryReady_of_comparatorReady {i : Instr} {s : State} (h : ComparatorReady i s) : BinaryReady s := by
  obtain ⟨-, hbinary, -⟩ | ⟨-, hbinary⟩ := h <;> exact hbinary

/-- Ready operands raise no error, and `RESULT` is their distance. -/
theorem exec_comparator {i : Instr} {s : State} (h : ComparatorReady i s) :
    exec i s = .next { s with result := BitVec.ofNat 32 (operandDistance i s) } := by
  obtain ⟨rfl, hready⟩ | ⟨rfl, hready⟩ := h
  · exact exec_hamhex hready
  · exact exec_hambin hready

theorem operandDistance_le (i : Instr) (s : State) : operandDistance i s ≤ 8 * comparedLength i s.hlena.toNat :=
  byteDistance_le _ _ _

/-- At most 64 bytes are compared, so `RESULT` holds the distance as it is. -/
theorem toNat_result_of_exec {i : Instr} {s t : State} (h : ComparatorReady i s) (hexec : exec i s = .next t) :
    t.result.toNat = operandDistance i s := by
  rw [exec_comparator h] at hexec
  rw [← Host.Outcome.next.inj hexec]
  have hlength := (binaryReady_of_comparatorReady h).1
  have hcompared := comparedLength_le i s.hlena.toNat
  have hdistance := operandDistance_le i s
  exact (BitVec.toNat_ofNat ..).trans (Nat.mod_eq_of_lt (by omega))

/-! ### Operands with the same bytes -/

theorem sameBytes_mono {m m' : Memory} {base base' L L' : Nat} (h : SameBytes m base m' base' L) (hL : L' ≤ L) :
    SameBytes m base m' base' L' := fun j hj => h j (hj.trans_le hL)

/-- A decoded byte is made of two characters of the operand. -/
theorem comparedByte_congr {m m' : Memory} {base base' L : Nat} (h : SameBytes m base m' base' L) (i : Instr) :
    ∀ j < comparedLength i L, comparedByte i m base j = comparedByte i m' base' j := by
  intro j hj
  unfold comparedLength at hj
  unfold comparedByte
  split_ifs at hj ⊢
  · rw [decodedByte, h (2 * j) (by omega), h (2 * j + 1) (by omega), decodedByte]
  · exact h j hj

theorem validHex_congr {m m' : Memory} {base base' L : Nat} (h : SameBytes m base m' base' L) :
    ValidHex m base L ↔ ValidHex m' base' L :=
  and_congr_right' (forall₂_congr fun j hj => by rw [h j hj])

theorem operandDistance_eq_zero {i : Instr} {s : State} : operandDistance i s = 0 ↔
    ∀ j < comparedLength i s.hlena.toNat, comparedByte i s.hbuf 0x100 j = comparedByte i s.hbuf 0x140 j :=
  byteDistance_eq_zero

/-! ### Exchanged operands -/

theorem sameBytes_of_swapped {s t : State} (h : Swapped s t) :
    SameBytes t.hbuf 0x100 s.hbuf 0x140 64 ∧ SameBytes t.hbuf 0x140 s.hbuf 0x100 64 := by
  obtain ⟨-, -, hbytes⟩ := h
  exact ⟨fun j hj => (hbytes j hj).1, fun j hj => (hbytes j hj).2⟩

theorem binaryReady_of_swapped {s t : State} (h : Swapped s t) (hs : BinaryReady s) : BinaryReady t := by
  obtain ⟨hlena, hlenb, -⟩ := h
  obtain ⟨hle, hlen⟩ := hs
  exact ⟨by rw [hlena, ← hlen]; exact hle, by rw [hlena, hlenb, hlen]⟩

/-- In range, exchanging the operands exchanges which of them is valid. -/
theorem validHex_of_swapped {s t : State} (h : Swapped s t) (ha : s.hlena.toNat ≤ 64) (hb : s.hlenb.toNat ≤ 64) :
    (ValidHex t.hbuf 0x100 t.hlena.toNat ↔ ValidHex s.hbuf 0x140 s.hlenb.toNat) ∧
      (ValidHex t.hbuf 0x140 t.hlenb.toNat ↔ ValidHex s.hbuf 0x100 s.hlena.toNat) := by
  obtain ⟨hA, hB⟩ := sameBytes_of_swapped h
  obtain ⟨hlena, hlenb, -⟩ := h
  rw [hlena, hlenb]
  exact ⟨validHex_congr (sameBytes_mono hA hb), validHex_congr (sameBytes_mono hB ha)⟩

theorem comparatorReady_of_swapped {i : Instr} {s t : State} (h : Swapped s t) (hs : ComparatorReady i s) :
    ComparatorReady i t := by
  obtain ⟨rfl, hbinary, hvalidA, hvalidB⟩ | ⟨rfl, hbinary⟩ := hs
  · obtain ⟨hA, hB⟩ := validHex_of_swapped h hbinary.1 (hbinary.2 ▸ hbinary.1)
    exact .inl ⟨rfl, binaryReady_of_swapped h hbinary, hA.2 hvalidB, hB.2 hvalidA⟩
  · exact .inr ⟨rfl, binaryReady_of_swapped h hbinary⟩

theorem operandDistance_of_swapped {i : Instr} {s t : State} (h : Swapped s t) (hs : BinaryReady s) :
    operandDistance i t = operandDistance i s := by
  obtain ⟨hA, hB⟩ := sameBytes_of_swapped h
  obtain ⟨hlena, -, -⟩ := h
  obtain ⟨hle, hlen⟩ := hs
  rw [operandDistance, hlena, ← hlen, byteDistance_congr (comparedByte_congr (sameBytes_mono hA hle) i)
    (comparedByte_congr (sameBytes_mono hB hle) i), byteDistance_comm, operandDistance]

/-- Settles O41: `RESULT` is the distance, so its laws are those of `byteDistance`. -/
theorem distanceIsSymmetricBoundedAndExact : Obligations.DistanceIsSymmetricBoundedAndExact := by
  intro i s t hready hexec
  have hresult := toNat_result_of_exec hready hexec
  have hbound := operandDistance_le i s
  have hzero : t.result = 0 ↔ operandDistance i s = 0 := by
    rw [← hresult]
    exact BitVec.toNat_inj.symm
  refine ⟨fun hsame => ?equal, fun s' t' hswap hexec' => ?symmetric, fun hi => ?hamhex, fun hi => ?hambin⟩
  case equal => exact hzero.2 (operandDistance_eq_zero.2 (comparedByte_congr hsame i))
  case symmetric =>
    have hresult' := toNat_result_of_exec (comparatorReady_of_swapped hswap hready) hexec'
    rw [operandDistance_of_swapped hswap (binaryReady_of_comparatorReady hready), ← hresult] at hresult'
    exact BitVec.eq_of_toNat_eq hresult'
  case hamhex =>
    subst hi
    exact ⟨hresult ▸ hbound, hzero.trans operandDistance_eq_zero⟩
  case hambin =>
    subst hi
    exact ⟨hresult ▸ hbound, hzero.trans operandDistance_eq_zero⟩

/-- Settles O42: the three distances are of the same three sequences of bytes. -/
theorem distanceTriangleInequality : Obligations.DistanceTriangleInequality := by
  intro i xy yz xz t1 t2 t3 hxy hyz hxz hlen_yz hlen_xz hX hY hZ h1 h2 h3
  rw [toNat_result_of_exec hxy h1, toNat_result_of_exec hyz h2, toNat_result_of_exec hxz h3, operandDistance,
    operandDistance, operandDistance, hlen_yz, hlen_xz,
    byteDistance_congr (comparedByte_congr hX i) (comparedByte_congr hZ i),
    byteDistance_congr (comparedByte_congr hY i) (fun _ _ => rfl)]
  exact byteDistance_triangle _ _ _ _

/-! ### The error code of exchanged operands -/

/-- A check that raises one code only. -/
def RaisesOnly (e : ErrCode) (check : Option (ErrCode × Word)) : Prop := ∀ r ∈ check, r.1 = e

/-- Two checks that raise one code only, and fail together, raise the same code. -/
theorem map_fst_congr {e : ErrCode} {check check' : Option (ErrCode × Word)} (h : RaisesOnly e check)
    (h' : RaisesOnly e check') (hiff : check = none ↔ check' = none) : check.map Prod.fst = check'.map Prod.fst := by
  cases check with
  | none => rw [hiff.1 rfl]
  | some r =>
    cases check' with
    | none => exact nomatch hiff.2 rfl
    | some r' => exact congrArg some ((h r rfl).trans (h' r' rfl).symm)

/-- The second check runs only where the first passes. -/
theorem map_fst_or_congr {c c' d d' : Option (ErrCode × Word)} (hc : c.map Prod.fst = c'.map Prod.fst)
    (hd : c = none → d.map Prod.fst = d'.map Prod.fst) : (c.or d).map Prod.fst = (c'.or d').map Prod.fst := by
  cases c with
  | none => rw [Option.map_eq_none_iff.1 hc.symm, Option.none_or, Option.none_or, hd rfl]
  | some r =>
    cases c' with
    | none => exact nomatch hc
    | some r' => exact hc

theorem raisesOnly_rangeCheck (s : State) : RaisesOnly .operandRange (rangeCheck s) := by
  unfold rangeCheck RaisesOnly
  split_ifs <;> simp

theorem raisesOnly_encodingCheck (s : State) : RaisesOnly .invalidEncoding (encodingCheck s) := by
  unfold encodingCheck RaisesOnly
  split
  · simp
  · split <;> simp

theorem raisesOnly_lengthCheck (s : State) : RaisesOnly .lengthMismatch (lengthCheck s) := by
  unfold lengthCheck RaisesOnly
  split <;> simp

/-- Exchanged operands fail the same check of the comparator, and so raise the same code. -/
theorem commandCheck_code_of_swapped {i : Instr} (hi : i = .hamhex ∨ i = .hambin) {s t : State} (h : Swapped s t) :
    (commandCheck i t).map Prod.fst = (commandCheck i s).map Prod.fst := by
  have ⟨hlena, hlenb, _⟩ := h
  have hrange : (rangeCheck t).map Prod.fst = (rangeCheck s).map Prod.fst :=
    map_fst_congr (raisesOnly_rangeCheck t) (raisesOnly_rangeCheck s) (by
      rw [rangeCheck_eq_none, rangeCheck_eq_none, hlena, hlenb, and_comm])
  have hlength : (lengthCheck t).map Prod.fst = (lengthCheck s).map Prod.fst :=
    map_fst_congr (raisesOnly_lengthCheck t) (raisesOnly_lengthCheck s) (by
      rw [lengthCheck_eq_none, lengthCheck_eq_none, hlena, hlenb, eq_comm])
  have hencoding (hpass : rangeCheck t = none) : (encodingCheck t).map Prod.fst = (encodingCheck s).map Prod.fst := by
    obtain ⟨ha, hb⟩ := rangeCheck_eq_none.1 hpass
    rw [hlena] at ha
    rw [hlenb] at hb
    obtain ⟨hA, hB⟩ := validHex_of_swapped h hb ha
    exact map_fst_congr (raisesOnly_encodingCheck t) (raisesOnly_encodingCheck s) (by
      rw [encodingCheck_eq_none, encodingCheck_eq_none, hA, hB, and_comm])
  obtain rfl | rfl := hi
  · exact map_fst_or_congr hrange fun hpass => map_fst_or_congr (hencoding hpass) fun _ => hlength
  · exact map_fst_or_congr hrange fun _ => hlength

/-- With no error recorded, `ERRCODE` becomes the code of the first failing check, if one fails. -/
theorem exec_errcode {i : Instr} (hi : i ≠ .clrerr) {s t : State} (herr : s.err = false) (h : exec i s = .next t) :
    t.errcode = ((commandCheck i s).map Prod.fst).getD s.errcode := by
  obtain ⟨hnone, rfl⟩ | ⟨e, info, hsome, rfl⟩ := exec_next_cases h
  · obtain ⟨-, -, hcode, -⟩ := sameErrors_commandEffect hi s
    rw [hnone, hcode]
    rfl
  · rw [hsome, recordError_errcode, herr]
    rfl

/-- Settles O43: the first failing check is of the same kind in both states. -/
theorem swappingKeepsTheErrorCode : Obligations.SwappingKeepsTheErrorCode := by
  intro i s s' t t' hi hswap herr herr' hcode hcode' h h'
  have hne : i ≠ .clrerr := by rintro rfl; exact hi.elim nofun nofun
  rw [exec_errcode hne herr h, exec_errcode hne herr' h', commandCheck_code_of_swapped hi hswap, hcode, hcode']

end Sys2Proof.Machine
end

section
/-!
PROOFS. The host's access sequence for a byte string computes its TinyHash32 (41_absorb.md rule R64; 43_serializer.md rule
R77).
-/

namespace Sys2Proof.Machine

open Sys2Proof.Safety

/-! ### Sequences of accesses -/

/-- The core takes exactly the accesses `es` off the port, one per step, and they take the registers of `s` to those of `t`. -/
def Serves (s : State) (es : List PortEvent) (t : State) : Prop :=
  ∀ rest, Host.Core.run core es.length (s.setPort (es ++ rest)) = .next (t.setPort rest)

theorem serves_nil (s : State) : Serves s [] s := fun _ => rfl

theorem Serves.append {s t u : State} {es es' : List PortEvent} (h : Serves s es t) (h' : Serves t es' u) :
    Serves s (es ++ es') u := by
  intro rest
  rw [List.length_append, List.append_assoc, run_add (M := core) _ _ (h (es' ++ rest))]
  exact h' rest

/-- One event is one step. -/
theorem serves_singleton {s t : State} {e : PortEvent}
    (h : ∀ rest, step (s.setPort (e :: rest)) = .next (t.setPort rest)) : Serves s [e] t :=
  fun rest => run_succ (M := core) (s := s.setPort (e :: rest)) (t := t.setPort rest) (h rest) 0

theorem storeReg_setPort (r : Reg) (v : Word) (s : State) (es : List PortEvent) :
    storeReg r v (s.setPort es) = (storeReg r v s).setPort es := by
  cases r <;> rfl

theorem commandEffect_setPort (i : Instr) (s : State) (es : List PortEvent) :
    commandEffect i (s.setPort es) = (commandEffect i s).setPort es := by
  cases i <;> rfl

/-- The host stores a value in a register other than `CMD`. -/
theorem serves_store {s : State} (hreset : s.inReset = false) {off : Nat} (halign : off % 4 = 0) (hwindow : off < 0x200)
    (h0 : off ≠ 0) (v : Word) : Serves s [.write off 4 v] (storeReg (regAt off) v s) :=
  serves_singleton fun rest => by
    rw [step_store (s := s.setPort _) rfl hreset halign hwindow h0, ← storeReg_setPort]
    rfl

/-- The host issues a well-formed command whose checks pass. -/
theorem serves_command {s : State} (hreset : s.inReset = false) {i : Instr} (hwf : i.wellFormed = true)
    (hpass : ¬ ChecksFail i s) : Serves s [commandWrite (encode i)] (commandEffect i (s.setCommand (encode i))) :=
  serves_singleton fun rest => by
    have hcheck : commandCheck i ((s.setPort rest).setCommand (encode i)) = none :=
      commandCheck_eq_none.2 (by cases i <;> exact hpass)
    rw [step_commandWrite (s := s.setPort _) rfl hreset, runCommand, decodeInvertsEncode i hwf]
    exact (exec_of_check_none hcheck).trans (congrArg _ (commandEffect_setPort i (s.setCommand (encode i)) rest))

/-! ### Sequences that keep a session going -/

/-- The core is out of reset, in the given session, with the error record of `s`. -/
structure InSession (s : State) (S : StateWords) (n cnt : Word) (phase : Phase) (round : BitVec 3) (t : State) : Prop where
  inReset : t.inReset = false
  errors : SameErrors s t
  words : t.S = S
  length : t.n = n
  count : t.cnt = cnt
  phase : t.phase = phase
  round : t.round = round

/-- From every state that meets `P` the accesses lead to one that meets `Q`. -/
def Drives (P : State → Prop) (es : List PortEvent) (Q : State → Prop) : Prop :=
  ∀ s, P s → ∃ t, Serves s es t ∧ Q t

theorem drives_nil (P : State → Prop) : Drives P [] P := fun s h => ⟨s, serves_nil s, h⟩

theorem Drives.append {P Q R : State → Prop} {es es' : List PortEvent} (h : Drives P es Q) (h' : Drives Q es' R) :
    Drives P (es ++ es') R := by
  intro s hs
  obtain ⟨t, hst, ht⟩ := h s hs
  obtain ⟨u, htu, hu⟩ := h' t ht
  exact ⟨u, hst.append htu, hu⟩

/-- `start n` opens a session for `n` bytes. -/
theorem drives_startEvents (s : State) (n : Nat) :
    Drives (fun t => t.inReset = false ∧ SameErrors s t) (startEvents n)
      (InSession s (initWords (BitVec.ofNat 32 n)) (BitVec.ofNat 32 n) 0 .absorb 0) := by
  rintro t ⟨hreset, herrors⟩
  have hlen : Serves t [.write 0x010 4 (BitVec.ofNat 32 n)] { t with len := BitVec.ofNat 32 n } :=
    serves_store hreset rfl (by decide) (by decide) _
  have hinit := serves_command (s := { t with len := BitVec.ofNat 32 n }) (i := .init) hreset rfl id
  exact ⟨_, hlen.append hinit, ⟨hreset, herrors, rfl, rfl, rfl, rfl, rfl⟩⟩

/-- The two writes of a block leave it in `DIN0` and `DIN1`. -/
theorem serves_blockWrites {t : State} (hreset : t.inReset = false) (w1 w2 : Word) :
    Serves t [.write 0x020 4 w1, .write 0x024 4 w2] (t.withBlock w1 w2) := by
  have hfirst : Serves t [.write 0x020 4 w1] { t with din0 := w1 } := serves_store hreset rfl (by decide) (by decide) w1
  exact hfirst.append (serves_store (s := { t with din0 := w1 }) hreset rfl (by decide) (by decide) w2)

/-- `block w1, w2` folds one block. -/
theorem drives_blockEvents (s : State) (S : StateWords) (n cnt w1 w2 : Word) :
    Drives (InSession s S n cnt .absorb 0) (blockEvents w1 w2)
      (InSession s (absorbWords S w1 w2) n (cnt + 8) .absorb 0) := by
  rintro t ⟨hreset, herrors, rfl, hn, rfl, hphase, hround⟩
  have hcommand := serves_command (s := t.withBlock w1 w2) (i := .absorb) hreset rfl (not_not_intro hphase)
  exact ⟨_, (serves_blockWrites hreset w1 w2).append hcommand, ⟨hreset, herrors, rfl, hn, rfl, hphase, hround⟩⟩

/-- The absorption loop over the first `q` blocks of `m`. -/
theorem drives_blocks (s : State) (m : List Byte) (S : StateWords) (n : Word) (q : Nat) :
    Drives (InSession s S n 0 .absorb 0)
      ((List.range q).flatMap fun i => blockEvents (blockWord m (8 * i)) (blockWord m (8 * i + 4)))
      (InSession s (absorbBlocks m q S) n (BitVec.ofNat 32 (8 * q)) .absorb 0) := by
  induction q with
  | zero => exact drives_nil _
  | succ q ih =>
    have hcount : BitVec.ofNat 32 (8 * (q + 1)) = BitVec.ofNat 32 (8 * q) + 8 := by
      rw [Nat.mul_succ, BitVec.ofNat_add]
      rfl
    rw [List.range_succ, List.flatMap_append, List.flatMap_singleton, hcount, absorbBlocks, List.range_succ,
      List.foldl_append]
    exact ih.append (drives_blockEvents s (absorbBlocks m q S) n _ _ _)

/-- `tailblk k, w1, w2` folds the tail, which is `w1` and `w2` where these are already padded. -/
theorem drives_tailEvents (s : State) (S : StateWords) (n cnt : Word) {k : BitVec 3} (hk : k ≠ 0) {w1 w2 : Word}
    (hlow : blockLow (tailBlock k.toNat w1 w2) = w1) (hhigh : blockHigh (tailBlock k.toNat w1 w2) = w2) :
    Drives (InSession s S n cnt .absorb 0) (tailEvents k w1 w2)
      (InSession s (tailWords S w1 w2 n) n (cnt + BitVec.ofNat 32 k.toNat) .tailed 0) := by
  rintro t ⟨hreset, herrors, rfl, rfl, rfl, hphase, hround⟩
  have hpass : ¬ ChecksFail (.tail k) (t.withBlock w1 w2) := not_or.2 ⟨hk, not_not_intro hphase⟩
  have hcommand := serves_command (s := t.withBlock w1 w2) (i := .tail k) hreset (bne_iff_ne.2 hk) hpass
  refine ⟨_, (serves_blockWrites hreset w1 w2).append hcommand, ⟨hreset, herrors, ?words, rfl, ?count, rfl, hround⟩⟩
  case words => exact congr (congrArg (tailWords t.S) hlow) hhigh ▸ rfl
  case count => exact BitVec.ofNat_toNat 32 k ▸ rfl

/-- `FINAL` runs all six rounds where none is done. -/
theorem drives_final (s : State) (S : StateWords) (n : Word) {phase : Phase} (hphase : phase = .absorb ∨ phase = .tailed) :
    Drives (InSession s S n n phase 0) [commandWrite (encode .final)] (InSession s (finWords S) n n .done 6) := by
  rintro t ⟨hreset, herrors, rfl, rfl, hcnt, rfl, hround⟩
  refine ⟨_, serves_command (i := .final) hreset rfl (not_not_intro (.inr ⟨hphase, hcnt⟩)),
    ⟨hreset, herrors, ?words, rfl, hcnt, rfl, rfl⟩⟩
  change remainingRounds t.round.toNat t.S = finWords t.S
  rw [hround]
  rfl

/-! ### The tail of a byte string -/

/-- A lane of a block word past the end of `m` is padding. -/
theorem blockWord_lane_of_le (m : List Byte) {o i : Nat} (hi : i < 4) (h : m.length ≤ o + i) :
    (blockWord m o).extractLsb' (8 * i) 8 = 0 :=
  (lane_le32_consecutive (fun j => m.getD j 0) o hi).trans (List.getD_eq_default m 0 h)

/-- The block words of the tail are already padded with zeros. -/
theorem tailBlock_blockWord (m : List Byte) {o k : Nat} (hm : m.length = o + k) :
    blockLow (tailBlock k (blockWord m o) (blockWord m (o + 4))) = blockWord m o ∧
      blockHigh (tailBlock k (blockWord m o) (blockWord m (o + 4))) = blockWord m (o + 4) := by
  refine ⟨word_ext fun i hi => ?low, word_ext fun i hi => ?high⟩
  case low =>
    rw [blockLow_tailBlock _ _ _ hi]
    split
    · rfl
    · exact (blockWord_lane_of_le m hi (by omega)).symm
  case high =>
    rw [blockHigh_tailBlock _ _ _ hi]
    split
    · rfl
    · exact (blockWord_lane_of_le m hi (by omega)).symm

/-- The step after the loop: the tail if there is one, and then every byte of `m` is counted. -/
theorem drives_absorbTail (s : State) (m : List Byte) (S : StateWords) :
    ∃ phase, (phase = .absorb ∨ phase = .tailed) ∧
      Drives (InSession s S (BitVec.ofNat 32 m.length) (BitVec.ofNat 32 (8 * (m.length / 8))) .absorb 0)
        (if m.length % 8 = 0 then []
          else tailEvents (BitVec.ofNat 3 (m.length % 8)) (blockWord m (8 * (m.length / 8)))
            (blockWord m (8 * (m.length / 8) + 4)))
        (InSession s (absorbTail m S) (BitVec.ofNat 32 m.length) (BitVec.ofNat 32 m.length) phase 0) := by
  have hlength : m.length = 8 * (m.length / 8) + m.length % 8 := by omega
  unfold absorbTail
  split
  case isTrue hfull =>
    have hcount : 8 * (m.length / 8) = m.length := by omega
    rw [hcount]
    exact ⟨.absorb, .inl rfl, drives_nil _⟩
  case isFalse hrest =>
    have hk : (BitVec.ofNat 3 (m.length % 8)).toNat = m.length % 8 := by
      rw [BitVec.toNat_ofNat]
      omega
    have hk0 : BitVec.ofNat 3 (m.length % 8) ≠ 0 := fun h => hrest (hk ▸ congrArg BitVec.toNat h)
    obtain ⟨hlow, hhigh⟩ := tailBlock_blockWord m hlength
    have htail := drives_tailEvents s S (BitVec.ofNat 32 m.length) (BitVec.ofNat 32 (8 * (m.length / 8))) hk0
      (hk.symm ▸ hlow) (hk.symm ▸ hhigh)
    rw [hk, ← BitVec.ofNat_add, ← hlength] at htail
    exact ⟨.tailed, .inr rfl, htail⟩

/-- The whole sequence leaves the state words of `TinyHash32(m)` in a finished session. -/
theorem drives_digestEvents (s : State) (m : List Byte) :
    Drives (fun t => t.inReset = false ∧ SameErrors s t) (digestEvents m)
      (InSession s (tinyHash32Words m) (BitVec.ofNat 32 m.length) (BitVec.ofNat 32 m.length) .done 6) := by
  obtain ⟨phase, hphase, htail⟩ :=
    drives_absorbTail s m (absorbBlocks m (m.length / 8) (initWords (BitVec.ofNat 32 m.length)))
  exact (((drives_startEvents s m.length).append (drives_blocks s m _ _ (m.length / 8))).append htail).append
    (drives_final s _ _ hphase)

/-- Settles O35: the sequence is served one access per step, part by part, and ends in the finished session. -/
theorem hostSequenceComputesTinyHash32 : Obligations.HostSequenceComputesTinyHash32 := by
  intro m s rest hreset hport
  obtain ⟨t, hserves, ht⟩ := drives_digestEvents s m s ⟨hreset, rfl, rfl, rfl, rfl, rfl⟩
  have hrun := hserves rest
  rw [← hport] at hrun
  exact ⟨t.setPort rest, hrun, ht.words, ht.phase, ht.round, ht.errors, rfl⟩

end Sys2Proof.Machine
end
